-- ==== Sys2Proof/Word.lean ====
section
/-! DEFINITION. The words of the block: bytes of its three serial lines and the 16-bit check code (R154, R101, R174). -/

namespace Sys2Proof

/-- One byte of the host port or of an axle link (R101, R154). -/
abbrev Byte := BitVec 8

/-- The 16-bit register of the CRC (R174). -/
abbrev Crc := BitVec 16

/-- A count that stops at `lim` (00 "Counters and numbers"). -/
def satInc (lim n : Nat) : Nat := min (n + 1) lim

end Sys2Proof
end

