-- ==== Sys2Proof/Syntax.lean ====
section
/-! DEFINITION. The commands the block takes: one constructor per row of spec/opcode_table.json. -/

namespace Sys2Proof

/-- The two axles; "x" of the spec's names is F or R (00 "Names"). -/
inductive Axle where
  | front
  | rear
  deriving DecidableEq, Repr

/-- The direction of a cap: the sign of the torque it limits (00 "Sign and direction", R42). -/
inductive Direction where
  | drive
  | regen
  deriving DecidableEq, Repr

/-- The cap sources of the host pool (R42, R46). -/
inductive HostSource where
  | host0
  | host1
  | host2
  | host3
  deriving DecidableEq, Repr

/-- The twelve stages of the period operation, in order (R4). -/
inductive Stage where
  | demand
  | outputState
  | share
  | caps
  | split
  | clamp
  | transfer
  | slew
  | shortfall
  | issue
  | monitor
  | report
  deriving DecidableEq, Repr

/-- What one axle link measures by REFCLK below a millisecond (R101, R104). -/
structure LineMeasures where
  /-- Bits of the command frame in flight that have been sent. -/
  txBits : Nat
  /-- Microseconds since the last byte of a partial frame. -/
  rxGapUs : Nat
  /-- Microseconds for which the receive line has been low. -/
  lowLineUs : Nat
  deriving DecidableEq, Repr

/-- The measures below a millisecond that hold while REFCLK is absent (R25, R101, R154; log 12). -/
structure Measures where
  /-- Microseconds counted by the period timer. -/
  periodUs : Nat
  /-- Bits of the frame on HTX that have been sent. -/
  hostTxBits : Nat
  /-- Microseconds since the last byte of a host frame being received. -/
  hostGapUs : Nat
  front : LineMeasures
  rear : LineMeasures
  deriving DecidableEq, Repr

/-! ### Orders the spec leaves open inside one command (log 31) -/

/-- The moments inside a command at which a claim of another block can be taken: between two claims that the spec takes one
by one (R44, R60, R84, R99, R118), and between the Fault Unit's take of a FORCING change and Output Control's take of the
notice (R131, R143). -/
inductive ClaimGap where
  /-- Between the two INVERTER posts of an accepted frame (R114 step 3). -/
  | inverter
  /-- Before the first of the two LINK claims of a state change (R118). -/
  | beforeLink
  /-- Between the two LINK claims (R118). -/
  | link
  /-- Before the Slip Monitor takes an accepted frame (R84). -/
  | handOver
  /-- Between the Slip Monitor's take of the frame and the Tracking Monitor's (R84). -/
  | monitors
  /-- Between the two TRACK posts (R99). -/
  | track
  /-- Between the Fault Unit's take of a FORCING change and Output Control's take of the forcing notice (R131). -/
  | forcing
  deriving DecidableEq, Repr

/-- Which of two claims the Cap Table takes first: a Slip Monitor's withdrawal at a direction change, or the stage 4 take of
the same period (R94). The two monitors' withdrawals are claims of their own, so either can come on either side. -/
inductive SlipOrder where
  /-- Both withdrawals before the take. -/
  | beforeTake
  /-- Both after the take. -/
  | afterTake
  /-- The front axle's after the take, the rear axle's before it. -/
  | frontAfterTake
  /-- The rear axle's after the take, the front axle's before it. -/
  | rearAfterTake
  deriving DecidableEq, Repr

/-- What is taken at such a moment. -/
inductive Meanwhile where
  /-- The period operation up to and including a stage: at stage 4 the period take (R60), with the order of R94. -/
  | period (through : Stage) (slip : SlipOrder := .beforeTake)
  /-- The ARM at the head of the request queue (R131). -/
  | arm
  /-- The CAP WITHDRAW SOURCE at the head of the request queue (R56). -/
  | capWithdrawSource
  /-- The CAP LIST at the head of the request queue (R57). -/
  | capList
  deriving DecidableEq, Repr

/-! ### What falls between the looks of a STATUS (R169, log 36) -/

/-- The items of a STATUS reply, each a separate look at its owner's state (R169). -/
inductive StatusItem where
  | partState
  | resetCause
  | ocState
  | armOutcome
  | tripRecord
  | activeSlot
  | blendRemaining
  | frontLink
  | rearLink
  | testSet
  | demandAge
  | acceptedCount
  | periodNumber
  | badFrames
  | dropped
  | overwrites
  | duplicates
  | reportSkips
  | noticeSkips
  deriving DecidableEq, Repr

/-- An event of a block that owns such an item, taken while HP gathers them. Its constructors carry the operands of the
commands they stand for. -/
inductive OwnerEvent where
  | period (through : Stage) (slip : SlipOrder := .beforeTake)
  | armWindow
  | linkTimer (axle : Axle)
  | statusFrame (axle : Axle) (bytes : List Byte)
  | badFrame (axle : Axle) (bytes : List Byte) (framingError : Bool)
  | gapCut (axle : Axle)
  | lineLow (axle : Axle)
  | lineHigh (axle : Axle)
  | windowEnd (edges : Nat)
  deriving DecidableEq, Repr

/-! ### The trip that meets the completion of a command frame (R108, log 37) -/

/-- What can make Output Control trip in READY: TORQUE OFF, or a forcing notice of the Fault Unit (R136, R144). The
constructors carry the operands of the commands they stand for. -/
inductive TripEvent where
  /-- The TORQUE OFF at the head of the request queue (R137). -/
  | torqueOff
  /-- The FAULT TEST at the head of the request queue (R150). -/
  | faultTest
  /-- The period operation up to and including a stage, and the trip of its DEMAND_STALE that is due next (R39). -/
  | period (through : Stage) (slip : SlipOrder := .beforeTake)
  /-- The link timer of an axle expires (R115): NO_AXLE. -/
  | linkTimer (axle : Axle)
  /-- The receive line of an axle has been low for 90 µs (R116): NO_AXLE. -/
  | lineLow (axle : Axle)
  /-- A clock check window ends (R151): TIMEBASE. -/
  | windowEnd (edges : Nat)
  deriving DecidableEq, Repr

/-- A trip that a link takes after the completion of its frame, and before the frame that waits has started. -/
structure MetTrip where
  event : TripEvent
  /-- The other link's frame in flight completes before that trip too. -/
  both : Bool := false
  deriving DecidableEq, Repr

/-- The commands. The requests carry no operand of their own: HP takes the request frame at the head of its request
queue, and the fields stand in that frame's payload (R158, R172; log 10). What a command says besides is which orders are
taken that the spec leaves open (log 31, log 36, log 37). -/
inductive Instr where
  /-- POWER_UP (R168). -/
  | powerUp
  /-- PIN_RESET (R168): RESETn is driven low. -/
  | pinReset
  /-- RESETN_RELEASE (R168). -/
  | resetnRelease
  /-- SOFTWARE_RESET (R167): the last byte of the RESET reply has been sent. -/
  | softwareReset
  /-- HOST_FRAME_RECEIVED (R155): these bytes arrive on HRX. -/
  | hostFrameReceived (bytes : List Byte)
  /-- HOST_GAP_TIMEOUT (R155). -/
  | hostGapTimeout
  /-- HOST_FRAME_SENT (R161). -/
  | hostFrameSent
  /-- SETUP (R162). -/
  | setup
  /-- RESET (R167). -/
  | reset
  /-- STATUS (R169). `during`: the owners' events taken while HP gathers the items, each with items looked at before it; every
  item that stands beside none of them is looked at after them all (log 36). -/
  | status (during : List (List StatusItem × OwnerEvent) := [])
  /-- PARAM SET (R164). -/
  | paramSet
  /-- PARAM GET (R165). -/
  | paramGet
  /-- SYNC (R166). -/
  | sync
  /-- A request whose KIND is no request kind (R158, R171). -/
  | kindUnknown
  /-- DEMAND (R29 to R32). -/
  | demand
  /-- CAP POST (R48 to R50). -/
  | capPost
  /-- CAP WITHDRAW (R55). -/
  | capWithdraw
  /-- CAP WITHDRAW SOURCE (R56). -/
  | capWithdrawSource
  /-- CAP LIST (R57). -/
  | capList
  /-- PROFILE WRITE (R70 to R72). -/
  | profileWrite
  /-- PROFILE CHECK (R73). -/
  | profileCheck
  /-- PROFILE READ (R74). -/
  | profileRead
  /-- PROFILE SELECT (R75 to R78). -/
  | profileSelect
  /-- LINK QUERY (R125). -/
  | linkQuery
  /-- LINK POST (R123). -/
  | linkPost
  /-- ARM (R130). -/
  | arm
  /-- DISARM (R135). -/
  | disarm
  /-- TORQUE OFF (R137). -/
  | torqueOff
  /-- CLEAR TRIP (R138). -/
  | clearTrip
  /-- FAULT READ (R147). -/
  | faultRead
  /-- FAULT MASK (R149). -/
  | faultMask
  /-- FAULT TEST (R150). -/
  | faultTest
  /-- PERIOD_EXPIRY (R4): the period operation up to and including stage `through`. Where an operation is in progress,
  it goes on from the stage it has reached; otherwise the period timer expires and a new operation begins (log 28). `slip`
  says which claim the Cap Table takes first at a direction change (R94, log 31). -/
  | periodExpiry (through : Stage) (slip : SlipOrder := .beforeTake)
  /-- HOST_ENTRY_EXPIRY (R52): the remaining time of the entry with this key reaches 0. -/
  | hostEntryExpiry (source : HostSource) (axle : Axle) (dir : Direction)
  /-- ARM_WINDOW_EXPIRY (R133). -/
  | armWindowExpiry
  /-- LINK_TIMER_EXPIRY (R115). `inGaps`: what is taken between its claims (log 31). -/
  | linkTimerExpiry (axle : Axle) (inGaps : List (ClaimGap × Meanwhile) := [])
  /-- COMMAND_FRAME_COMPLETE (R108). `met`: the trip that reaches the frame in flight as well, and that the link takes after its
  completion: its break then starts on the free line (log 37). -/
  | commandFrameComplete (axle : Axle) (met : Option MetTrip := none)
  /-- BREAK_END (R110). -/
  | breakEnd (axle : Axle)
  /-- STATUS_FRAME_ACCEPTED (R112 to R114): these bytes arrive on the link's receive line. `inGaps`: what is taken between
  the claims of the frame they complete (log 31). -/
  | statusFrameAccepted (axle : Axle) (bytes : List Byte) (inGaps : List (ClaimGap × Meanwhile) := [])
  /-- STATUS_FRAME_BAD (R112, R113): these bytes arrive and, where `framingError` holds, a byte whose stop bit is low. -/
  | statusFrameBad (axle : Axle) (bytes : List Byte) (framingError : Bool)
  /-- RECEIVE_GAP_CUT (R112, R113): more than 10 µs without a byte. -/
  | receiveGapCut (axle : Axle)
  /-- LINE_LOW_90US (R116). `inGaps`: what is taken between its claims (log 31). -/
  | lineLow90us (axle : Axle) (inGaps : List (ClaimGap × Meanwhile) := [])
  /-- RECEIVE_LINE_HIGH (R116). -/
  | receiveLineHigh (axle : Axle)
  /-- CLOCK_CHECK_WINDOW_END (R151): a window ends with this count of rising edges of REFCLK. `inGaps`: what is
  taken before Output Control takes the forcing notice of TIMEBASE (R131, log 31). -/
  | clockCheckWindowEnd (edges : Nat) (inGaps : List (ClaimGap × Meanwhile) := [])
  /-- REFCLK_STOPS (R25): REFCLK stops, with the measures below a millisecond as they stand. A period operation in progress is
  completed (log 40). -/
  | refclkStops (held : Measures)
  /-- REFCLK_RETURNS (R25). -/
  | refclkReturns
  deriving DecidableEq, Repr

end Sys2Proof
end

