-- ==== Sys2Proof/Config.lean ====
section
/-! DEFINITION. What the part fixes, and the free values: what the spec leaves open. -/

namespace Sys2Proof

/-- Free value (R39, log 5): which stage of the period OC takes the trip of a DEMAND_STALE before.
The step takes it modulo 12 and adds 2, so that 2 is "before the demand notice", 3 "after stage 2", and so on to 13,
"after the last stage". -/
opaque Config.staleTripStage : Nat → Nat

/-- Free value (R133, R134, log 3): the order in which the arm window and the two link timers are taken when more than
one of them reaches 0 at one expiry of the 1 ms timer. The step takes it modulo 6. -/
opaque Config.tickOrder : Nat → Nat

/-- Places of the request queue (R157). -/
def Config.requestPlaces : Nat := 4

/-- Places of the transmit queue (R161). -/
def Config.transmitPlaces : Nat := 6

/-- Places of the host pool (R42, R46). -/
def Config.poolPlaces : Nat := 12

/-- PART_ID, parameter 0x10 (R164). -/
def Config.partId : Nat := 0x00D2

/-- SILICON_REV, parameter 0x11 (R164). -/
def Config.siliconRev : Nat := 1

end Sys2Proof
end

