-- ==== Sys2Proof/Machine/State.lean ====
section
/-! DEFINITION. The state of the block as plain data: every register, counter, queue, mode and pin the spec names, the
queue of commands waiting, and the state after reset. -/

namespace Sys2Proof.Machine

/-- One value for each axle. -/
structure ByAxle (α : Type) where
  front : α
  rear : α
  deriving DecidableEq, Repr

/-- One value for each direction. -/
structure ByDir (α : Type) where
  drive : α
  regen : α
  deriving DecidableEq, Repr

def ByAxle.get {α : Type} (p : ByAxle α) : Axle → α
  | .front => p.front
  | .rear => p.rear

def ByAxle.set {α : Type} (p : ByAxle α) (x : Axle) (v : α) : ByAxle α :=
  match x with
  | .front => { p with front := v }
  | .rear => { p with rear := v }

def ByDir.get {α : Type} (p : ByDir α) : Direction → α
  | .drive => p.drive
  | .regen => p.regen

def ByDir.set {α : Type} (p : ByDir α) (d : Direction) (v : α) : ByDir α :=
  match d with
  | .drive => { p with drive := v }
  | .regen => { p with regen := v }

/-! ### Output Control (07) -/

/-- The states of Output Control (R127). -/
inductive OcState where
  | disarmed
  | arming
  | armed
  | tripped
  deriving DecidableEq, Repr

/-- How the last ARM attempt ended (R140). -/
inductive ArmOutcome where
  | none
  | armed
  | window
  | link
  | disarm
  | trip
  deriving DecidableEq, Repr

/-- The fifteen faults, by code (R142). -/
inductive FaultCode where
  | hostLink
  | demandStale
  | linkFLost
  | linkRLost
  | linkFBreak
  | linkRBreak
  | noAxle
  | trackF
  | trackR
  | slipF
  | slipR
  | shortfall
  | timebase
  | capFull
  | noticeLost
  deriving DecidableEq, Repr

/-- What tripped the part: a FORCING fault, or a TORQUE OFF (R127). -/
inductive TripCause where
  | fault (code : FaultCode)
  | host
  deriving DecidableEq, Repr

/-- The trip record (R127). -/
structure TripRecord where
  cause : TripCause
  period : Nat
  deriving DecidableEq, Repr

/-- Output Control (R127) with the pins it drives (R128). -/
structure OutputControl where
  state : OcState
  armMark : Nat
  /-- Stopped, or the milliseconds remaining. -/
  armWindow : Option Nat
  lastOutcome : ArmOutcome
  tripRecord : Option TripRecord
  enF : Bool
  enR : Bool
  deriving DecidableEq, Repr

/-! ### Split Engine (01) -/

/-- The period operation in progress: which stages are done, and what they gave (R4 to R13). -/
structure PeriodWork where
  /-- Number of stages done, 0 to 12. -/
  done : Nat
  /-- The stage before which OC takes the trip of a DEMAND_STALE signalled at stage 1, if one was (R39). -/
  staleTripAt : Option Nat
  held : Int
  accepted : Nat
  periodOc : OcState
  demand : Int
  driveShare : Nat
  regenShare : Nat
  share : Nat
  activeSlot : Nat
  blendRemaining : Nat
  transfer : Nat
  slewStep : Nat
  shortfallThreshold : Nat
  shortfallCount : Nat
  /-- The four profile limits SE carries into the take of stage 4. -/
  limits : ByAxle (ByDir Nat)
  /-- The four effective caps of stage 4. -/
  caps : ByAxle (ByDir Nat)
  /-- F0 and R0. -/
  parts : ByAxle Int
  /-- F1 and R1. -/
  clamped : ByAxle Int
  /-- F2 and R2. -/
  targets : ByAxle Int
  /-- Fout and Rout. -/
  outputs : ByAxle Int
  shortfall : Int
  deriving DecidableEq, Repr

/-- The Split Engine (R1). -/
structure SplitEngine where
  prevFront : Int
  prevRear : Int
  periodNumber : Nat
  shortfallRun : Nat
  shortfallLive : Bool
  reportCount : Nat
  timerRunning : Bool
  /-- The count the period timer holds while REFCLK is absent, in µs (R25; log 12). -/
  timerUs : Nat
  work : Option PeriodWork
  deriving DecidableEq, Repr

/-! ### Demand Intake (02) -/

/-- An accepted demand not yet taken by SE (R27). -/
structure PendingDemand where
  number : Nat
  torque : Int
  deriving DecidableEq, Repr

/-- The basis of the held demand (R27). -/
structure CurrentDemand where
  number : Nat
  torque : Int
  age : Nat
  deriving DecidableEq, Repr

/-- Demand Intake (R27). -/
structure DemandIntake where
  pending : Option PendingDemand
  current : Option CurrentDemand
  staleSignalled : Bool
  prevHeld : Int
  acceptedCount : Nat
  lastSeq : Option Byte
  refSpeed : Int
  refSpeedKnown : Bool
  rearLoad : Nat
  rearLoadKnown : Bool
  overwrites : Nat
  duplicates : Nat
  deriving DecidableEq, Repr

/-! ### Cap Table (03) -/

/-- The cap sources of the internal slots (R43). -/
inductive InternalSource where
  | inverter
  | link
  | slip
  | track
  deriving DecidableEq, Repr

/-- An occupied internal slot (R43). -/
structure CapSlot where
  limit : Nat
  posted : Nat
  deriving DecidableEq, Repr

/-- The sixteen internal slots, one for each source, axle and direction (R43). -/
structure InternalSlots where
  inverter : ByAxle (ByDir (Option CapSlot))
  link : ByAxle (ByDir (Option CapSlot))
  slip : ByAxle (ByDir (Option CapSlot))
  track : ByAxle (ByDir (Option CapSlot))
  deriving DecidableEq, Repr

/-- An entry of the host pool (R42, R46). -/
structure HostEntry where
  source : HostSource
  axle : Axle
  dir : Direction
  limit : Nat
  posted : Nat
  /-- The remaining milliseconds, for an entry with an expiry. -/
  remaining : Option Nat
  deriving DecidableEq, Repr

/-- The Cap Table (R43, R46). -/
structure CapTable where
  slots : InternalSlots
  /-- In posting order. -/
  pool : List HostEntry
  deriving DecidableEq, Repr

/-! ### Profile Table (04) -/

/-- A profile: the thirty fields of R65, in their order. -/
structure Profile where
  baseShare : Nat
  regenShare : Nat
  transfer : Nat
  slewStep : Nat
  driveLimitFront : Nat
  driveLimitRear : Nat
  regenLimitFront : Nat
  regenLimitRear : Nat
  slipOn : Nat
  slipOff : Nat
  slipCount : Nat
  cutStep : Nat
  recoverStep : Nat
  slipFloor : Nat
  blendPeriods : Nat
  demandHold : Nat
  decayStep : Nat
  trackThreshold : Nat
  trackCount : Nat
  shortfallThreshold : Nat
  shortfallCount : Nat
  map0 : Nat
  map1 : Nat
  map2 : Nat
  map3 : Nat
  map4 : Nat
  map5 : Nat
  map6 : Nat
  map7 : Nat
  map8 : Nat
  deriving DecidableEq, Repr

/-- A slot that can be written: EMPTY while it has no profile, VALID otherwise (R64). -/
structure ProfileSlot where
  profile : Option Profile
  revision : Nat
  deriving DecidableEq, Repr

/-- Slots 1 to 7 (R63). Slot 0 is fixed and not stored. -/
structure ProfileSlots where
  slot1 : ProfileSlot
  slot2 : ProfileSlot
  slot3 : ProfileSlot
  slot4 : ProfileSlot
  slot5 : ProfileSlot
  slot6 : ProfileSlot
  slot7 : ProfileSlot
  deriving DecidableEq, Repr

/-- The Profile Table (R63). -/
structure ProfileTable where
  slots : ProfileSlots
  active : Fin 8
  blendRunning : Bool
  startDrive : Nat
  startRegen : Nat
  blendStep : Nat
  blendLength : Nat
  lastDrive : Nat
  lastRegen : Nat
  deriving DecidableEq, Repr

/-! ### Slip and Tracking Monitors (05) -/

/-- The states of a Slip Monitor (R85). -/
inductive SmState where
  | idle
  | grip
  | slip
  | recover
  deriving DecidableEq, Repr

/-- A Slip Monitor (R85). -/
structure SlipMonitor where
  state : SmState
  monitored : Int
  counting : Option Direction
  run : Nat
  cap : Option Nat
  live : Bool
  deriving DecidableEq, Repr

/-- A Tracking Monitor (R98). -/
structure TrackingMonitor where
  run : Nat
  deriving DecidableEq, Repr

/-! ### Axle Links (06) -/

/-- The states of a link (R104). -/
inductive LinkState where
  | off
  | starting
  | synced
  | hunt
  | lost
  | broken
  deriving DecidableEq, Repr

/-- A command frame as the link forms it from an issue, with the period number of the issue (R102, R105). -/
structure FormedFrame where
  seq : Byte
  enable : Bool
  torque : Int
  driveLimit : Nat
  regenLimit : Nat
  period : Nat
  deriving DecidableEq, Repr

/-- A command frame as it started on the line, with the fields filled at its start (R102, R107). -/
structure StartedFrame where
  seq : Byte
  enable : Bool
  torque : Int
  driveLimit : Nat
  regenLimit : Nat
  /-- The service code and argument it carries. -/
  service : Option (Byte × Nat)
  /-- The acknowledged notice code it carries. -/
  ack : Option Byte
  crc : Crc
  deriving DecidableEq, Repr

/-- What a software reset left on the transmit line, to finish there (R111). -/
inductive LineTail where
  | none
  /-- With the bits of it already sent, as held while REFCLK is absent (R101; log 12). -/
  | frame (f : StartedFrame) (txBits : Nat)
  | brk
  deriving DecidableEq, Repr

/-- An entry of the command history ring (R106). -/
structure RingEntry where
  seq : Byte
  torque : Int
  enable : Bool
  period : Nat
  deriving DecidableEq, Repr

/-- The last status record (R104, R114). -/
structure StatusRecord where
  flags : Byte
  torque : Int
  availDrive : Nat
  availRegen : Nat
  speed : Int
  deriving DecidableEq, Repr

/-- The states of the outbound service slot (R104, R124). -/
inductive ServiceState where
  | empty
  | queued
  | sent
  | done
  | timedOut
  deriving DecidableEq, Repr

/-- The outbound service slot (R104). -/
structure ServiceSlot where
  state : ServiceState
  code : Byte
  argument : Nat
  sentCount : Nat
  deriving DecidableEq, Repr

/-- The counters of a link (R126). -/
structure LinkCounters where
  framesSent : Nat
  framesAccepted : Nat
  badFrames : Nat
  replaced : Nat
  staleEchoes : Nat
  noticesLost : Nat
  breaks : Nat
  serviceTimeouts : Nat
  deriving DecidableEq, Repr

/-- An axle link (R104). -/
structure AxleLink where
  state : LinkState
  inFlight : Option StartedFrame
  /-- Bits of the frame in flight already sent, as held while REFCLK is absent (R101; log 12). -/
  txBits : Nat
  waiting : Option FormedFrame
  breakSending : Bool
  tail : LineTail
  frameSeq : Byte
  /-- Oldest first, at most four. -/
  ring : List RingEntry
  /-- The seq of the last command frame that started (R125). -/
  lastStarted : Option Byte
  badRun : Nat
  /-- The bytes so far of a frame or candidate being received. -/
  partialBytes : List Byte
  /-- Time since the last of them, as held while REFCLK is absent (R101; log 12). -/
  rxGapUs : Nat
  lowLineUs : Nat
  recovery : Nat
  /-- Stopped, or the milliseconds remaining. -/
  timer : Option Nat
  acceptedSinceReady : Bool
  lastStatus : Option StatusRecord
  notice : Option (Byte × Nat)
  lostNotice : Option Byte
  ackCode : Option Byte
  service : ServiceSlot
  counters : LinkCounters
  deriving DecidableEq, Repr

/-- The out record, held by AL-F for both links (R120). -/
structure OutRecord where
  frontOut : Bool
  rearOut : Bool
  noAxleLive : Bool
  deriving DecidableEq, Repr

/-! ### Fault Unit (08) -/

/-- A fault record (R141). -/
structure FaultRecord where
  live : Bool
  test : Bool
  latched : Bool
  masked : Bool
  count : Nat
  deriving DecidableEq, Repr

/-- The fifteen records; the mask set is their masked fields (R141). -/
structure FaultRecords where
  hostLink : FaultRecord
  demandStale : FaultRecord
  linkFLost : FaultRecord
  linkRLost : FaultRecord
  linkFBreak : FaultRecord
  linkRBreak : FaultRecord
  noAxle : FaultRecord
  trackF : FaultRecord
  trackR : FaultRecord
  slipF : FaultRecord
  slipR : FaultRecord
  shortfall : FaultRecord
  timebase : FaultRecord
  capFull : FaultRecord
  noticeLost : FaultRecord
  deriving DecidableEq, Repr

/-- The Fault Unit (R141) with the pin ATTN (R145), `true` while asserted. -/
structure FaultUnit where
  records : FaultRecords
  attn : Bool
  deriving DecidableEq, Repr

/-! ### Host Port (09) and Timebase (08) -/

/-- The states of the part as a whole (R153). -/
inductive PartState where
  | standby
  | ready
  deriving DecidableEq, Repr

/-- The reset cause (R153). -/
inductive ResetCause where
  | power
  | pin
  | software
  deriving DecidableEq, Repr

/-- The eight writable parameters (R164). -/
structure Params where
  splitPeriodUs : Nat
  linkTimeoutMs : Nat
  demandTimeoutMs : Nat
  reportInterval : Nat
  hostErrorLimit : Nat
  armWindowMs : Nat
  noticesEnable : Nat
  linkRecoverFrames : Nat
  deriving DecidableEq, Repr

/-- A host frame: a request, a reply or an unsolicited frame. SOF, LEN and CRC follow from it (R154, R171). -/
structure HostFrame where
  kind : Byte
  tag : Byte
  payload : List Byte
  deriving DecidableEq, Repr

/-- A pending SYNC (R166). -/
structure PendingSync where
  tag : Byte
  awaited : Nat
  deriving DecidableEq, Repr

/-- The Host Port (R153). -/
structure HostPort where
  part : PartState
  cause : ResetCause
  params : Params
  /-- Out of frame, or the bytes after SOF so far. -/
  framer : Option (List Byte)
  /-- Time since the last byte inside a frame, as held while REFCLK is absent (R154; log 12). -/
  gapUs : Nat
  requestQueue : List HostFrame
  txQueue : List HostFrame
  sending : Option HostFrame
  /-- Bits of the frame being sent already sent, as held while REFCLK is absent (R154; log 12). -/
  sendBits : Nat
  pendingSync : Option PendingSync
  /-- A RESET has been taken and the software reset has not (R167). -/
  resetTaken : Bool
  hostLinkLive : Bool
  badFrames : Nat
  dropped : Nat
  reportSkips : Nat
  noticeSkips : Nat
  deriving DecidableEq, Repr

/-- The Timebase: the clock check (R151), and whether REFCLK is present (R25). -/
structure Timebase where
  outsideRun : Nat
  insideRun : Nat
  timebaseLive : Bool
  refclk : Bool
  deriving DecidableEq, Repr

/-! ### The block -/

/-- The state of the block. -/
structure State where
  se : SplitEngine
  di : DemandIntake
  ct : CapTable
  pt : ProfileTable
  sm : ByAxle SlipMonitor
  tm : ByAxle TrackingMonitor
  link : ByAxle AxleLink
  out : OutRecord
  oc : OutputControl
  fu : FaultUnit
  hp : HostPort
  tb : Timebase
  /-- RESETn is held low (R168). -/
  resetnLow : Bool
  /-- The model's own: how many free values have been drawn (log 6). -/
  freeIndex : Nat
  /-- The commands waiting, first in, first out. -/
  pending : List Instr
  deriving DecidableEq, Repr

/-- Why the machine stops with a fault: never. The spec gives every command an effect in every state (log 2). -/
inductive Fault where
  deriving DecidableEq, Repr

/-- Why a step is refused. -/
inductive Refusal where
  /-- Raised by an arm of `exec` whose command has no meaning yet; no arm raises it now. Safe. -/
  | notModelled (mnemonic : String)
  deriving DecidableEq, Repr

/-! ### Updates: one setter for each field -/

def State.setSe (s : State) (v : SplitEngine) : State := { s with se := v }
def State.setDi (s : State) (v : DemandIntake) : State := { s with di := v }
def State.setCt (s : State) (v : CapTable) : State := { s with ct := v }
def State.setPt (s : State) (v : ProfileTable) : State := { s with pt := v }
def State.setSm (s : State) (x : Axle) (v : SlipMonitor) : State := { s with sm := s.sm.set x v }
def State.setTm (s : State) (x : Axle) (v : TrackingMonitor) : State := { s with tm := s.tm.set x v }
def State.setLink (s : State) (x : Axle) (v : AxleLink) : State := { s with link := s.link.set x v }
def State.setOut (s : State) (v : OutRecord) : State := { s with out := v }
def State.setOc (s : State) (v : OutputControl) : State := { s with oc := v }
def State.setFu (s : State) (v : FaultUnit) : State := { s with fu := v }
def State.setHp (s : State) (v : HostPort) : State := { s with hp := v }
def State.setTb (s : State) (v : Timebase) : State := { s with tb := v }
def State.setResetnLow (s : State) (v : Bool) : State := { s with resetnLow := v }
def State.setFreeIndex (s : State) (v : Nat) : State := { s with freeIndex := v }
def State.setPending (s : State) (v : List Instr) : State := { s with pending := v }

/-! ### Reset values, block by block -/

/-- Split Engine after reset (R1). -/
def SplitEngine.reset : SplitEngine where
  prevFront := 0
  prevRear := 0
  periodNumber := 0
  shortfallRun := 0
  shortfallLive := false
  reportCount := 0
  timerRunning := false
  timerUs := 0
  work := none

/-- Demand Intake after reset and at READY entry (R27). -/
def DemandIntake.reset : DemandIntake where
  pending := none
  current := none
  staleSignalled := false
  prevHeld := 0
  acceptedCount := 0
  lastSeq := none
  refSpeed := 0
  refSpeedKnown := false
  rearLoad := 0
  rearLoadKnown := false
  overwrites := 0
  duplicates := 0

/-- An axle's two slots of one source, empty. -/
def emptyDirs : ByDir (Option CapSlot) := ⟨none, none⟩

/-- The Cap Table emptied (R61). -/
def CapTable.reset : CapTable where
  slots :=
    { inverter := ⟨emptyDirs, emptyDirs⟩, link := ⟨emptyDirs, emptyDirs⟩,
      slip := ⟨emptyDirs, emptyDirs⟩, track := ⟨emptyDirs, emptyDirs⟩ }
  pool := []

/-- A slot after reset: EMPTY, revision 0 (R63). -/
def ProfileSlot.reset : ProfileSlot := ⟨none, 0⟩

/-- The Profile Table after reset (R63). -/
def ProfileTable.reset : ProfileTable where
  slots :=
    { slot1 := ProfileSlot.reset, slot2 := ProfileSlot.reset, slot3 := ProfileSlot.reset,
      slot4 := ProfileSlot.reset, slot5 := ProfileSlot.reset, slot6 := ProfileSlot.reset,
      slot7 := ProfileSlot.reset }
  active := 0
  blendRunning := false
  startDrive := 0
  startRegen := 0
  blendStep := 0
  blendLength := 0
  lastDrive := 500
  lastRegen := 500

/-- A Slip Monitor after reset and at READY entry (R85). -/
def SlipMonitor.reset : SlipMonitor where
  state := .idle
  monitored := 0
  counting := none
  run := 0
  cap := none
  live := false

/-- A Tracking Monitor after reset and at READY entry (R98). -/
def TrackingMonitor.reset : TrackingMonitor where
  run := 0

/-- The outbound service slot EMPTY; its code, argument and count are 0 (log 20). -/
def ServiceSlot.reset : ServiceSlot where
  state := .empty
  code := 0
  argument := 0
  sentCount := 0

/-- The link counters after reset (R126). -/
def LinkCounters.reset : LinkCounters where
  framesSent := 0
  framesAccepted := 0
  badFrames := 0
  replaced := 0
  staleEchoes := 0
  noticesLost := 0
  breaks := 0
  serviceTimeouts := 0

/-- A link after reset (R104). -/
def AxleLink.reset : AxleLink where
  state := .off
  inFlight := none
  txBits := 0
  waiting := none
  breakSending := false
  tail := .none
  frameSeq := 0
  ring := []
  lastStarted := none
  badRun := 0
  partialBytes := []
  rxGapUs := 0
  lowLineUs := 0
  recovery := 0
  timer := none
  acceptedSinceReady := false
  lastStatus := none
  notice := none
  lostNotice := none
  ackCode := none
  service := ServiceSlot.reset
  counters := LinkCounters.reset

/-- The out record after reset and at READY entry (R120). -/
def OutRecord.reset : OutRecord where
  frontOut := false
  rearOut := false
  noAxleLive := false

/-- Output Control after reset (R127, R128). -/
def OutputControl.reset : OutputControl where
  state := .disarmed
  armMark := 0
  armWindow := none
  lastOutcome := .none
  tripRecord := none
  enF := false
  enR := false

/-- A fault record after reset, but for its mask bit (R141). -/
def FaultRecord.reset (masked : Bool) : FaultRecord where
  live := false
  test := false
  latched := false
  masked := masked
  count := 0

/-- The Fault Unit after reset: SLIP_F and SLIP_R masked (R141), ATTN asserted (R145). -/
def FaultUnit.reset : FaultUnit where
  records :=
    { hostLink := .reset false, demandStale := .reset false, linkFLost := .reset false,
      linkRLost := .reset false, linkFBreak := .reset false, linkRBreak := .reset false,
      noAxle := .reset false, trackF := .reset false, trackR := .reset false,
      slipF := .reset true, slipR := .reset true, shortfall := .reset false,
      timebase := .reset false, capFull := .reset false, noticeLost := .reset false }
  attn := true

/-- The parameters in STANDBY (R153). -/
def Params.reset : Params where
  splitPeriodUs := 0
  linkTimeoutMs := 0
  demandTimeoutMs := 0
  reportInterval := 0
  hostErrorLimit := 0
  armWindowMs := 0
  noticesEnable := 0
  linkRecoverFrames := 0

/-- The Host Port after a reset with this cause (R153). -/
def HostPort.reset (cause : ResetCause) : HostPort where
  part := .standby
  cause := cause
  params := Params.reset
  framer := none
  gapUs := 0
  requestQueue := []
  txQueue := []
  sending := none
  sendBits := 0
  pendingSync := none
  resetTaken := false
  hostLinkLive := false
  badFrames := 0
  dropped := 0
  reportSkips := 0
  noticeSkips := 0

/-- The Timebase after reset (R151); REFCLK is an input and present here (log 7). -/
def Timebase.reset : Timebase where
  outsideRun := 0
  insideRun := 0
  timebaseLive := false
  refclk := true

/-- The block right after the reset at power-up, RESETn released and REFCLK present (R168; log 7, log 8). -/
def State.reset : State where
  se := SplitEngine.reset
  di := DemandIntake.reset
  ct := CapTable.reset
  pt := ProfileTable.reset
  sm := ⟨SlipMonitor.reset, SlipMonitor.reset⟩
  tm := ⟨TrackingMonitor.reset, TrackingMonitor.reset⟩
  link := ⟨AxleLink.reset, AxleLink.reset⟩
  out := OutRecord.reset
  oc := OutputControl.reset
  fu := FaultUnit.reset
  hp := HostPort.reset .power
  tb := Timebase.reset
  resetnLow := false
  freeIndex := 0
  pending := []

end Sys2Proof.Machine
end

