-- ==== Sys2Proof/Machine/Operands.lean ====
section
/-! DEFINITION. Operand forms: bytes and fields, the CRC, the codes of named values, the frames of the three lines, the
request kinds, the parameters and the profile fields (R101 to R103, R154, R164 to R175, R65). -/

namespace Sys2Proof.Machine

/-! ### Fields of one, two and four bytes, little-endian (R170) -/

def u8 (n : Nat) : List Byte := [BitVec.ofNat 8 n]

def u16 (n : Nat) : List Byte := [BitVec.ofNat 8 n, BitVec.ofNat 8 (n / 256)]

def u32 (n : Nat) : List Byte :=
  [BitVec.ofNat 8 n, BitVec.ofNat 8 (n / 256), BitVec.ofNat 8 (n / 65536), BitVec.ofNat 8 (n / 16777216)]

/-- int16, two's complement. -/
def i16 (z : Int) : List Byte := u16 (BitVec.ofInt 16 z).toNat

def byteAt (p : List Byte) (i : Nat) : Byte := p.getD i 0

def u8At (p : List Byte) (i : Nat) : Nat := (byteAt p i).toNat

def u16At (p : List Byte) (i : Nat) : Nat := u8At p i + 256 * u8At p (i + 1)

def u32At (p : List Byte) (i : Nat) : Nat := u16At p i + 65536 * u16At p (i + 2)

def i16At (p : List Byte) (i : Nat) : Int := (BitVec.ofNat 16 (u16At p i)).toInt

def flag (b : Bool) : Nat := if b then 1 else 0

/-! ### The CRC (R174) -/

/-- One bit of the CRC register: shift left, and add the generator where the top bit was set. -/
def crcBit (c : Crc) : Crc := if c.msb then (c <<< 1) ^^^ 0x1021#16 else c <<< 1

/-- One byte, most significant bit first. -/
def crcByte (c : Crc) (b : Byte) : Crc :=
  crcBit (crcBit (crcBit (crcBit (crcBit (crcBit (crcBit (crcBit (c ^^^ (b.setWidth 16 <<< 8)))))))))

/-- The CRC of the covered bytes, from the preset 0xFFFF. -/
def crc16 (bytes : List Byte) : Crc := bytes.foldl crcByte 0xFFFF#16

/-! ### Codes of named values (R170) -/

/-- The result codes (R160, R170); `guarded` is PROTECTED, which Lean reserves. -/
inductive ResultCode where
  | ok
  | busy
  | state
  | range
  | length
  | kindUnknown
  | paramUnknown
  | readOnly
  | fieldUnknown
  | incomplete
  | guarded
  | full
  | notFound
  | duplicate
  | empty
  | aborted
  deriving DecidableEq, Repr

def ResultCode.code : ResultCode → Nat
  | .ok => 0x00
  | .busy => 0x01
  | .state => 0x02
  | .range => 0x03
  | .length => 0x04
  | .kindUnknown => 0x05
  | .paramUnknown => 0x06
  | .readOnly => 0x07
  | .fieldUnknown => 0x08
  | .incomplete => 0x09
  | .guarded => 0x0A
  | .full => 0x0B
  | .notFound => 0x0C
  | .duplicate => 0x0D
  | .empty => 0x0E
  | .aborted => 0x0F

def InternalSource.code : InternalSource → Nat
  | .inverter => 0
  | .link => 1
  | .slip => 2
  | .track => 3

def hostSourceCode : HostSource → Nat
  | .host0 => 4
  | .host1 => 5
  | .host2 => 6
  | .host3 => 7

def axleCode : Axle → Nat
  | .front => 0
  | .rear => 1

def dirCode : Direction → Nat
  | .drive => 0
  | .regen => 1

def PartState.code : PartState → Nat
  | .standby => 0
  | .ready => 1

def ResetCause.code : ResetCause → Nat
  | .power => 0
  | .pin => 1
  | .software => 2

def OcState.code : OcState → Nat
  | .disarmed => 0
  | .arming => 1
  | .armed => 2
  | .tripped => 3

def ArmOutcome.code : ArmOutcome → Nat
  | .none => 0
  | .armed => 1
  | .window => 2
  | .link => 3
  | .disarm => 4
  | .trip => 5

def LinkState.code : LinkState → Nat
  | .off => 0
  | .starting => 1
  | .synced => 2
  | .hunt => 3
  | .lost => 4
  | .broken => 5

def SmState.code : SmState → Nat
  | .idle => 0
  | .grip => 1
  | .slip => 2
  | .recover => 3

def ServiceState.code : ServiceState → Nat
  | .empty => 0
  | .queued => 1
  | .sent => 2
  | .done => 3
  | .timedOut => 4

/-- The fault codes (R142). -/
def FaultCode.code : FaultCode → Nat
  | .hostLink => 1
  | .demandStale => 2
  | .linkFLost => 3
  | .linkRLost => 4
  | .linkFBreak => 5
  | .linkRBreak => 6
  | .noAxle => 7
  | .trackF => 8
  | .trackR => 9
  | .slipF => 10
  | .slipR => 11
  | .shortfall => 12
  | .timebase => 13
  | .capFull => 14
  | .noticeLost => 15

def TripCause.code : TripCause → Nat
  | .fault c => c.code
  | .host => 0xFF

/-- The cause and period number of a trip record as a reply carries them; 0 and 0 for none (R170, R172). -/
def tripFields : Option TripRecord → List Byte
  | none => u8 0 ++ u32 0
  | some r => u8 r.cause.code ++ u32 r.period

/-- A cap source as a request names it (R47): one of the internal four or one of the host four. -/
inductive CapSource where
  | internal (s : InternalSource)
  | host (s : HostSource)
  deriving DecidableEq, Repr

def readSource (n : Nat) : Option CapSource :=
  match n with
  | 0 => some (.internal .inverter)
  | 1 => some (.internal .link)
  | 2 => some (.internal .slip)
  | 3 => some (.internal .track)
  | 4 => some (.host .host0)
  | 5 => some (.host .host1)
  | 6 => some (.host .host2)
  | 7 => some (.host .host3)
  | _ => none

def readAxle (n : Nat) : Option Axle :=
  match n with
  | 0 => some .front
  | 1 => some .rear
  | _ => none

/-- The axles a CAP POST names: BOTH is code 2 (R170). -/
def readAxles (n : Nat) : Option (List Axle) :=
  match n with
  | 0 => some [.front]
  | 1 => some [.rear]
  | 2 => some [.front, .rear]
  | _ => none

def readDir (n : Nat) : Option Direction :=
  match n with
  | 0 => some .drive
  | 1 => some .regen
  | _ => none

/-! ### The host frame (R154, R171) -/

/-- The bytes a host frame's CRC covers: LEN, KIND, TAG, PAYLOAD (R174). -/
def HostFrame.covered (f : HostFrame) : List Byte :=
  u8 (f.payload.length + 2) ++ [f.kind, f.tag] ++ f.payload

/-- A host frame as it stands on the line. -/
def HostFrame.bytes (f : HostFrame) : List Byte :=
  [0xC5#8] ++ f.covered ++ u16 (crc16 f.covered).toNat

/-- The frame of the bytes from LEN on (LEN, KIND, TAG, PAYLOAD, CRC). -/
def readHostFrame (bytes : List Byte) : HostFrame where
  kind := byteAt bytes 1
  tag := byteAt bytes 2
  payload := (bytes.drop 3).take (u8At bytes 0 - 2)

/-- Whether the CRC of the bytes from LEN on matches (R155 step 3). -/
def hostFrameGood (bytes : List Byte) : Bool :=
  let covered := bytes.take (u8At bytes 0 + 1)
  decide ((crc16 covered).toNat = u16At bytes (u8At bytes 0 + 1))

/-! ### Axle link frames (R173, R175) -/

/-- The flags byte of a command frame (R175). -/
def StartedFrame.flags (f : StartedFrame) : Nat :=
  flag f.enable + 2 * flag f.service.isSome + 4 * flag f.ack.isSome

/-- The bytes a command frame's CRC covers, offsets 2 to 13 (R173, R174). -/
def StartedFrame.covered (f : StartedFrame) : List Byte :=
  [f.seq] ++ u8 f.flags ++ i16 f.torque ++ u16 f.driveLimit ++ u16 f.regenLimit
    ++ [(f.service.map Prod.fst).getD 0] ++ u16 ((f.service.map Prod.snd).getD 0) ++ [f.ack.getD 0]

/-- A command frame as it stands on the line: 16 bytes (R173). -/
def StartedFrame.bytes (f : StartedFrame) : List Byte :=
  [0x6B#8, 0x94#8] ++ f.covered ++ u16 f.crc.toNat

/-- A status frame (R103). -/
structure StatusFrame where
  echo : Byte
  flags : Byte
  torque : Int
  availDrive : Nat
  availRegen : Nat
  speed : Int
  serviceEcho : Byte
  noticeCode : Byte
  noticeArg : Nat
  deriving DecidableEq, Repr

/-- The bytes a status frame's CRC covers, offsets 2 to 15 (R173, R174). -/
def StatusFrame.covered (f : StatusFrame) : List Byte :=
  [f.echo, f.flags] ++ i16 f.torque ++ u16 f.availDrive ++ u16 f.availRegen ++ i16 f.speed
    ++ [f.serviceEcho, f.noticeCode] ++ u16 f.noticeArg

/-- A status frame as it stands on the line: 18 bytes (R173). -/
def StatusFrame.bytes (f : StatusFrame) : List Byte :=
  [0x6B#8, 0x94#8] ++ f.covered ++ u16 (crc16 f.covered).toNat

/-- The fields of the 18 bytes of a status frame (R173). -/
def readStatusFrame (b : List Byte) : StatusFrame where
  echo := byteAt b 2
  flags := byteAt b 3
  torque := i16At b 4
  availDrive := u16At b 6
  availRegen := u16At b 8
  speed := i16At b 10
  serviceEcho := byteAt b 12
  noticeCode := byteAt b 13
  noticeArg := u16At b 14

/-- The bytes begin with the sync word (R101). -/
def beginsWithSync (b : List Byte) : Bool :=
  match b with
  | 0x6B#8 :: 0x94#8 :: _ => true
  | _ => false

/-- The CRC of 18 bytes matches (R174). -/
def statusCrcGood (b : List Byte) : Bool :=
  decide ((crc16 ((b.drop 2).take 14)).toNat = u16At b 16)

/-! ### Request kinds (R171) -/

/-- The request kinds. -/
inductive RequestKind where
  | setup
  | reset
  | status
  | paramSet
  | paramGet
  | sync
  | demand
  | capPost
  | capWithdraw
  | capWithdrawSource
  | capList
  | profileWrite
  | profileCheck
  | profileRead
  | profileSelect
  | linkQuery
  | linkPost
  | arm
  | disarm
  | torqueOff
  | clearTrip
  | faultRead
  | faultMask
  | faultTest
  deriving DecidableEq, Repr

/-- The KIND byte of a request. -/
def RequestKind.code : RequestKind → Byte
  | .setup => 0x01#8
  | .reset => 0x02#8
  | .status => 0x03#8
  | .paramSet => 0x04#8
  | .paramGet => 0x05#8
  | .sync => 0x06#8
  | .demand => 0x10#8
  | .capPost => 0x20#8
  | .capWithdraw => 0x21#8
  | .capWithdrawSource => 0x22#8
  | .capList => 0x23#8
  | .profileWrite => 0x28#8
  | .profileCheck => 0x29#8
  | .profileRead => 0x2A#8
  | .profileSelect => 0x2B#8
  | .linkQuery => 0x30#8
  | .linkPost => 0x31#8
  | .arm => 0x38#8
  | .disarm => 0x39#8
  | .torqueOff => 0x3A#8
  | .clearTrip => 0x3B#8
  | .faultRead => 0x40#8
  | .faultMask => 0x41#8
  | .faultTest => 0x42#8

/-- Every request kind. -/
def requestKinds : List RequestKind :=
  [.setup, .reset, .status, .paramSet, .paramGet, .sync, .demand, .capPost, .capWithdraw, .capWithdrawSource,
   .capList, .profileWrite, .profileCheck, .profileRead, .profileSelect, .linkQuery, .linkPost, .arm, .disarm,
   .torqueOff, .clearTrip, .faultRead, .faultMask, .faultTest]

/-- The KIND byte names a request kind (R158 check 1). -/
def kindKnown (k : Byte) : Bool := requestKinds.any fun r => decide (r.code = k)

/-- The payload length a kind requires (R158 check 2, R171). -/
def RequestKind.payloadBytes : RequestKind → Nat
  | .setup => 16
  | .reset => 0
  | .status => 0
  | .paramSet => 3
  | .paramGet => 1
  | .sync => 0
  | .demand => 8
  | .capPost => 7
  | .capWithdraw => 3
  | .capWithdrawSource => 1
  | .capList => 1
  | .profileWrite => 5
  | .profileCheck => 5
  | .profileRead => 5
  | .profileSelect => 1
  | .linkQuery => 1
  | .linkPost => 4
  | .arm => 0
  | .disarm => 0
  | .torqueOff => 0
  | .clearTrip => 0
  | .faultRead => 1
  | .faultMask => 2
  | .faultTest => 2

/-- Check 2 of R158: PROFILE WRITE and PROFILE CHECK need at least their slot and mask. -/
def RequestKind.lengthOk (k : RequestKind) (n : Nat) : Bool :=
  match k with
  | .profileWrite | .profileCheck => decide (k.payloadBytes ≤ n)
  | _ => decide (n = k.payloadBytes)

/-- How many bytes of fixed fields follow the result code in the kind's reply (R171). -/
def RequestKind.replyFieldBytes : RequestKind → Nat
  | .setup => 1
  | .reset => 0
  | .status => 35
  | .paramSet => 3
  | .paramGet => 3
  | .sync => 4
  | .demand => 2
  | .capPost => 1
  | .capWithdraw => 1
  | .capWithdrawSource => 2
  | .capList => 2
  | .profileWrite => 3
  | .profileCheck => 3
  | .profileRead => 4
  | .profileSelect => 1
  | .linkQuery => 40
  | .linkPost => 0
  | .arm => 1
  | .disarm => 0
  | .torqueOff => 5
  | .clearTrip => 1
  | .faultRead => 30
  | .faultMask => 2
  | .faultTest => 2

/-- The fields of a reply refused at check 3 of R158: each 0, but for ARM's condition number 1 (R160, R170). -/
def RequestKind.stateRefusalFields (k : RequestKind) : List Byte :=
  match k with
  | .arm => u8 1
  | _ => List.replicate k.replyFieldBytes 0

/-- Check 3 of R158, the request-by-state table of R159. -/
def RequestKind.refusedByState (k : RequestKind) (part : PartState) : Bool :=
  match part, k with
  | .standby, .setup | .standby, .reset | .standby, .status | .standby, .paramGet | .standby, .faultRead => false
  | .standby, _ => true
  | .ready, .setup => true
  | .ready, _ => false

/-! ### Parameters (R164) -/

/-- A value is in the range of a writable parameter, by its number. -/
def paramInRange (number value : Nat) : Bool :=
  match number with
  | 0x01 => decide (value = 250) || decide (value = 500) || decide (value = 1000) || decide (value = 2000)
  | 0x02 => decide (2 ≤ value) && decide (value ≤ 50)
  | 0x03 => decide (10 ≤ value) && decide (value ≤ 2000)
  | 0x04 => decide (value ≤ 1000)
  | 0x05 => decide (value = 2) || decide (value = 4) || decide (value = 8)
  | 0x06 => decide (10 ≤ value) && decide (value ≤ 500)
  | 0x07 => decide (value ≤ 1)
  | 0x08 => decide (2 ≤ value) && decide (value ≤ 32)
  | _ => false

/-- The value of a parameter, by its number; none for a number that is not one of the ten. -/
def Params.value (p : Params) (number : Nat) : Option Nat :=
  match number with
  | 0x01 => some p.splitPeriodUs
  | 0x02 => some p.linkTimeoutMs
  | 0x03 => some p.demandTimeoutMs
  | 0x04 => some p.reportInterval
  | 0x05 => some p.hostErrorLimit
  | 0x06 => some p.armWindowMs
  | 0x07 => some p.noticesEnable
  | 0x08 => some p.linkRecoverFrames
  | 0x10 => some Config.partId
  | 0x11 => some Config.siliconRev
  | _ => none

/-- A parameter that PARAM SET may write takes a value; the others stay. -/
def Params.write (p : Params) (number value : Nat) : Params :=
  match number with
  | 0x03 => { p with demandTimeoutMs := value }
  | 0x04 => { p with reportInterval := value }
  | 0x05 => { p with hostErrorLimit := value }
  | 0x06 => { p with armWindowMs := value }
  | 0x07 => { p with noticesEnable := value }
  | _ => p

/-- The eight parameters a SETUP carries, in order of parameter number (R162). -/
def readSetup (p : List Byte) : Params where
  splitPeriodUs := u16At p 0
  linkTimeoutMs := u16At p 2
  demandTimeoutMs := u16At p 4
  reportInterval := u16At p 6
  hostErrorLimit := u16At p 8
  armWindowMs := u16At p 10
  noticesEnable := u16At p 12
  linkRecoverFrames := u16At p 14

/-- The number of the first parameter of a SETUP that is out of range (R162). -/
def Params.firstBad (p : Params) : Option Nat :=
  [1, 2, 3, 4, 5, 6, 7, 8].find? fun n => !(paramInRange n ((p.value n).getD 0))

/-! ### Profile fields (R65, R66) -/

/-- The thirty fields by number. -/
def Profile.toList (p : Profile) : List Nat :=
  [p.baseShare, p.regenShare, p.transfer, p.slewStep, p.driveLimitFront, p.driveLimitRear, p.regenLimitFront,
   p.regenLimitRear, p.slipOn, p.slipOff, p.slipCount, p.cutStep, p.recoverStep, p.slipFloor, p.blendPeriods,
   p.demandHold, p.decayStep, p.trackThreshold, p.trackCount, p.shortfallThreshold, p.shortfallCount,
   p.map0, p.map1, p.map2, p.map3, p.map4, p.map5, p.map6, p.map7, p.map8]

/-- The profile of thirty fields by number. -/
def Profile.ofList (l : List Nat) : Profile where
  baseShare := l.getD 0 0
  regenShare := l.getD 1 0
  transfer := l.getD 2 0
  slewStep := l.getD 3 0
  driveLimitFront := l.getD 4 0
  driveLimitRear := l.getD 5 0
  regenLimitFront := l.getD 6 0
  regenLimitRear := l.getD 7 0
  slipOn := l.getD 8 0
  slipOff := l.getD 9 0
  slipCount := l.getD 10 0
  cutStep := l.getD 11 0
  recoverStep := l.getD 12 0
  slipFloor := l.getD 13 0
  blendPeriods := l.getD 14 0
  demandHold := l.getD 15 0
  decayStep := l.getD 16 0
  trackThreshold := l.getD 17 0
  trackCount := l.getD 18 0
  shortfallThreshold := l.getD 19 0
  shortfallCount := l.getD 20 0
  map0 := l.getD 21 0
  map1 := l.getD 22 0
  map2 := l.getD 23 0
  map3 := l.getD 24 0
  map4 := l.getD 25 0
  map5 := l.getD 26 0
  map6 := l.getD 27 0
  map7 := l.getD 28 0
  map8 := l.getD 29 0

/-- The fixed contents of slot 0 (R65). -/
def slot0Profile : Profile where
  baseShare := 500
  regenShare := 500
  transfer := 1
  slewStep := 250
  driveLimitFront := 4000
  driveLimitRear := 4000
  regenLimitFront := 2500
  regenLimitRear := 2500
  slipOn := 150
  slipOff := 80
  slipCount := 3
  cutStep := 400
  recoverStep := 50
  slipFloor := 300
  blendPeriods := 20
  demandHold := 4
  decayStep := 200
  trackThreshold := 600
  trackCount := 8
  shortfallThreshold := 500
  shortfallCount := 20
  map0 := 500
  map1 := 500
  map2 := 500
  map3 := 500
  map4 := 500
  map5 := 500
  map6 := 500
  map7 := 500
  map8 := 500

/-- The least and greatest value of each field, by number (R65). The upper end of slip_off, field 9, is the slip_on of
the same profile less one (R66). -/
def fieldBounds (slipOn : Nat) : List (Nat × Nat) :=
  [(0, 1000), (0, 1000), (0, 1), (1, 2000), (0, 8000), (0, 8000), (0, 8000), (0, 8000)]
  ++ [(10, 500), (0, slipOn - 1), (1, 16), (1, 2000), (1, 2000), (0, 8000), (0, 255), (1, 50), (1, 2000)]
  ++ [(10, 4000), (1, 64), (0, 16000), (1, 255)]
  ++ [(0, 1000), (0, 1000), (0, 1000), (0, 1000), (0, 1000), (0, 1000), (0, 1000), (0, 1000), (0, 1000)]

/-- The field numbers, in ascending order. -/
def fieldNumbers : List Nat :=
  [0, 1, 2, 3, 4, 5, 6, 7, 8, 9] ++ [10, 11, 12, 13, 14, 15, 16, 17, 18, 19]
  ++ [20, 21, 22, 23, 24, 25, 26, 27, 28, 29]

/-- Field n of a profile is in its range. -/
def Profile.fieldInRange (p : Profile) (n : Nat) : Bool :=
  let v := p.toList.getD n 0
  let b := (fieldBounds p.slipOn).getD n (0, 0)
  decide (b.1 ≤ v) && decide (v ≤ b.2)

/-- The lowest field found out of range (R72). -/
def Profile.firstBad (p : Profile) : Option Nat := fieldNumbers.find? fun n => !(p.fieldInRange n)

/-- Bit n of a field mask. -/
def maskBit (mask n : Nat) : Bool := mask.testBit n

/-- How many of the 32 bits of a field mask are set. -/
def maskCount (mask : Nat) : Nat := ((fieldNumbers ++ [30, 31]).filter (maskBit mask)).length

/-- The values a list gives to the fields of a mask, over the fields the slot holds (R66, R70). -/
def mergeFields : (ns : List Nat) → (mask : Nat) → (values : List Nat) → (old : List Nat) → List Nat
  | [], _, _, _ => []
  | n :: ns, mask, values, old =>
    if maskBit mask n then
      values.headD 0 :: mergeFields ns mask values.tail old
    else
      old.getD n 0 :: mergeFields ns mask values old

/-- The sixteen-bit values of a payload from offset 5 on (R172). -/
def readValues (p : List Byte) (k : Nat) : List Nat := (List.range k).map fun i => u16At p (5 + 2 * i)

/-- The merged result of a write (R66). -/
def mergedProfile (old : Option Profile) (mask : Nat) (values : List Nat) : Profile :=
  Profile.ofList (mergeFields fieldNumbers mask values ((old.map Profile.toList).getD []))

end Sys2Proof.Machine
end

