-- ==== Sys2Proof/Machine/Port.lean ====
section
/-! DEFINITION. The transmit side of the Host Port: the transmit queue, replies and unsolicited frames (R160, R161). -/

namespace Sys2Proof.Machine

/-- The frame at the head of the transmit queue starts on HTX where none is being sent (R161). While REFCLK is absent
HP sends no byte and the frames wait in the queue (R154, log 14). -/
def startHostFrame (s : State) : State :=
  match s.tb.refclk, s.hp.sending, s.hp.txQueue with
  | true, none, f :: rest =>
    s.setHp { s.hp with sending := some f, sendBits := 0, txQueue := rest }
  | _, _, _ => s

/-- A frame enters the transmit queue (R161). -/
def enqueueFrame (f : HostFrame) (s : State) : State :=
  startHostFrame (s.setHp { s.hp with txQueue := s.hp.txQueue ++ [f] })

/-- An unsolicited frame is admitted: the queue is empty and no frame is being sent (R161). From a RESET until the
software reset the queue or the line is always busy (R167, log 11). -/
def admitsUnsolicited (s : State) : Bool :=
  s.hp.txQueue.isEmpty && s.hp.sending.isNone && !s.hp.resetTaken

/-- SE offers a SPLIT REPORT (R22, R161). -/
def offerReport (payload : List Byte) (s : State) : State :=
  if admitsUnsolicited s then enqueueFrame ⟨0xE0#8, 0, payload⟩ s
  else s.setHp { s.hp with reportSkips := satInc 65535 s.hp.reportSkips }

/-- FU offers a FAULT NOTICE (R146, R161). -/
def offerNotice (payload : List Byte) (s : State) : State :=
  if admitsUnsolicited s then enqueueFrame ⟨0xE1#8, 0, payload⟩ s
  else s.setHp { s.hp with noticeSkips := satInc 65535 s.hp.noticeSkips }

/-- The reply to a request: its KIND plus 0x80, its TAG, the result code and the fields (R160). -/
def replyFrame (request : HostFrame) (result : ResultCode) (fields : List Byte) : HostFrame where
  kind := request.kind + 0x80#8
  tag := request.tag
  payload := u8 result.code ++ fields

/-- The reply to a request enters the transmit queue (R160, R161). -/
def reply (request : HostFrame) (result : ResultCode) (fields : List Byte) (s : State) : State :=
  enqueueFrame (replyFrame request result fields) s

end Sys2Proof.Machine
end

