-- ==== Sys2Proof/Machine/Flags.lean ====
section
/-! DEFINITION. The Fault Unit: latching and counting, the attention line and FAULT NOTICE (R141 to R146). Every flag of
the fifteen records is computed here. -/

namespace Sys2Proof.Machine

def FaultRecords.get (r : FaultRecords) : FaultCode → FaultRecord
  | .hostLink => r.hostLink
  | .demandStale => r.demandStale
  | .linkFLost => r.linkFLost
  | .linkRLost => r.linkRLost
  | .linkFBreak => r.linkFBreak
  | .linkRBreak => r.linkRBreak
  | .noAxle => r.noAxle
  | .trackF => r.trackF
  | .trackR => r.trackR
  | .slipF => r.slipF
  | .slipR => r.slipR
  | .shortfall => r.shortfall
  | .timebase => r.timebase
  | .capFull => r.capFull
  | .noticeLost => r.noticeLost

def FaultRecords.set (r : FaultRecords) (c : FaultCode) (v : FaultRecord) : FaultRecords :=
  match c with
  | .hostLink => { r with hostLink := v }
  | .demandStale => { r with demandStale := v }
  | .linkFLost => { r with linkFLost := v }
  | .linkRLost => { r with linkRLost := v }
  | .linkFBreak => { r with linkFBreak := v }
  | .linkRBreak => { r with linkRBreak := v }
  | .noAxle => { r with noAxle := v }
  | .trackF => { r with trackF := v }
  | .trackR => { r with trackR := v }
  | .slipF => { r with slipF := v }
  | .slipR => { r with slipR := v }
  | .shortfall => { r with shortfall := v }
  | .timebase => { r with timebase := v }
  | .capFull => { r with capFull := v }
  | .noticeLost => { r with noticeLost := v }

/-- The fifteen faults in order of code (R142). -/
def faultCodes : List FaultCode :=
  [.hostLink, .demandStale, .linkFLost, .linkRLost, .linkFBreak, .linkRBreak, .noAxle, .trackF, .trackR, .slipF,
   .slipR, .shortfall, .timebase, .capFull, .noticeLost]

/-- The value of a set with one bit per fault (R170): bit n − 1 is fault code n. -/
def faultSet (field : FaultRecord → Bool) (r : FaultRecords) : Nat :=
  faultCodes.foldl (fun acc c => acc + (if field (r.get c) then 2 ^ (c.code - 1) else 0)) 0

/-- The fault of class FORCING (R142). -/
def FaultCode.forcing : FaultCode → Bool
  | .demandStale | .noAxle | .timebase => true
  | _ => false

/-- LINK_x_LOST of an axle (R119). -/
def linkLostFault : Axle → FaultCode
  | .front => .linkFLost
  | .rear => .linkRLost

/-- LINK_x_BREAK of an axle (R119). -/
def linkBreakFault : Axle → FaultCode
  | .front => .linkFBreak
  | .rear => .linkRBreak

/-- TRACK_x of an axle (R45). -/
def trackFault : Axle → FaultCode
  | .front => .trackF
  | .rear => .trackR

/-- SLIP_x of an axle (R96). -/
def slipFault : Axle → FaultCode
  | .front => .slipF
  | .rear => .slipR

/-- The condition of a fault is present (R141). -/
def FaultRecord.present (r : FaultRecord) : Bool := r.live || r.test

/-- What FU takes at a record: a signal of a live kind, a change of the test assertion, or an event (R142, R143). -/
inductive FaultChange where
  | live (b : Bool)
  | test (b : Bool)
  | event
  deriving DecidableEq, Repr

/-- The live or test field after the change (R143). -/
def FaultRecord.fieldsAfter (r : FaultRecord) (ch : FaultChange) : FaultRecord :=
  match ch with
  | .live b => { r with live := b }
  | .test b => { r with test := b }
  | .event => r

/-- The change is one from absent to present, or an event: it latches and counts (R143). -/
def FaultRecord.occurs (r : FaultRecord) (ch : FaultChange) : Bool :=
  match ch with
  | .event => true
  | _ => !r.present && (r.fieldsAfter ch).present

/-- The record after the take (R143). -/
def FaultRecord.take (r : FaultRecord) (ch : FaultChange) : FaultRecord :=
  let r' := r.fieldsAfter ch
  if r.occurs ch then { r' with latched := true, count := satInc 255 r.count } else r'

/-- FU gives Output Control a forcing notice: a FORCING fault's condition has become present, or DEMAND_STALE is
signalled (R143, R144). -/
def givesForcingNotice (c : FaultCode) (r : FaultRecord) (ch : FaultChange) : Bool :=
  match ch with
  | .event => decide (c = .demandStale)
  | _ => c.forcing && r.occurs ch

def faultRecord (c : FaultCode) (s : State) : FaultRecord := s.fu.records.get c

def setFaultRecord (c : FaultCode) (r : FaultRecord) (s : State) : State :=
  s.setFu { s.fu with records := s.fu.records.set c r }

/-- At least one fault is latched and not masked. -/
def FaultRecords.anyUnmaskedLatched (r : FaultRecords) : Bool :=
  faultCodes.any fun c => (r.get c).latched && !(r.get c).masked

/-- The level of ATTN (R145): asserted in STANDBY, or while an unmasked fault is latched. -/
def attnLevel (part : PartState) (r : FaultRecords) : Bool :=
  decide (part = .standby) || r.anyUnmaskedLatched

/-- FU sets ATTN afresh (R145). -/
def updateAttn (s : State) : State :=
  s.setFu { s.fu with attn := attnLevel s.hp.part s.fu.records }

/-- FU considers a FAULT NOTICE for a fault newly latched (R146). -/
def considerNotice (c : FaultCode) (s : State) : State :=
  let r := faultRecord c s
  if !r.masked && decide (s.hp.params.noticesEnable = 1) then
    offerNotice (u8 c.code ++ u8 (flag c.forcing) ++ u8 r.count) s
  else s

/-- FU updates the record (first part of R143). -/
def takeAtRecord (c : FaultCode) (ch : FaultChange) (s : State) : State :=
  setFaultRecord c ((faultRecord c s).take ch) s

/-- FU acts outward after the record, but for the forcing notice: ATTN, and a FAULT NOTICE where latched went from clear
to set (R143 steps 2 and 3). `old` is the record before the take. -/
def actOutward (c : FaultCode) (old : FaultRecord) (s : State) : State :=
  let s' := updateAttn s
  if !old.latched && (faultRecord c s').latched then considerNotice c s' else s'

/-- FU takes a signal that can give no forcing notice: one of class REPORTING, or a condition that becomes absent
(R143). -/
def signalReporting (c : FaultCode) (ch : FaultChange) (s : State) : State :=
  actOutward c (faultRecord c s) (takeAtRecord c ch s)

/-- The FORCING faults in order of code (R142). -/
def forcingCodes : List FaultCode := [.demandStale, .noAxle, .timebase]

/-- The lowest FORCING fault whose condition is present (R138). -/
def lowestForcing (s : State) : Option FaultCode :=
  forcingCodes.find? fun c => (faultRecord c s).present

end Sys2Proof.Machine
end

