-- ==== Sys2Proof/Machine/Ops.lean ====
section
/-! DEFINITION. Shared operations over the blocks: the Cap Table's claims, the leaving-ARMED notices, the trip, the full
take of a fault signal, the link state changes, and the guards every command shares. -/

namespace Sys2Proof.Machine

/-- What a step answers. -/
abbrev Answer := Host.Outcome State Fault Refusal

/-- A command acts unless the part is held in reset (R168, log 9). -/
def inOperation (effect : State → State) (s : State) : Answer :=
  .next (if s.resetnLow then s else effect s)

/-! ### What is taken between the claims of one command (log 31) -/

/-- What happens at each moment at which a claim of another block can be taken. -/
abbrev Gaps := ClaimGap → State → State

/-- Nothing is taken between the claims of a command. -/
abbrev noGaps : Gaps := fun _ s => s

/-! ### Free values (log 6) -/

/-- The state after a free value has been drawn. -/
def drawFree (s : State) : State := s.setFreeIndex (s.freeIndex + 1)

/-! ### The active profile (R77) -/

def ProfileSlots.get (t : ProfileSlots) (n : Fin 8) : ProfileSlot :=
  match n with
  | 0 => ⟨some slot0Profile, 0⟩
  | 1 => t.slot1
  | 2 => t.slot2
  | 3 => t.slot3
  | 4 => t.slot4
  | 5 => t.slot5
  | 6 => t.slot6
  | 7 => t.slot7

/-- A write of a slot; slot 0 is never modified (R70). -/
def ProfileSlots.set (t : ProfileSlots) (n : Fin 8) (v : ProfileSlot) : ProfileSlots :=
  match n with
  | 0 => t
  | 1 => { t with slot1 := v }
  | 2 => { t with slot2 := v }
  | 3 => { t with slot3 := v }
  | 4 => { t with slot4 := v }
  | 5 => { t with slot5 := v }
  | 6 => { t with slot6 := v }
  | 7 => { t with slot7 := v }

/-- The profile in the active slot. The active slot is never EMPTY (R64, R75). -/
def activeProfile (s : State) : Profile := ((s.pt.slots.get s.pt.active).profile).getD slot0Profile

/-- The profile's limit for an axle and a direction (R65). -/
def Profile.limit (p : Profile) (x : Axle) (d : Direction) : Nat :=
  match x, d with
  | .front, .drive => p.driveLimitFront
  | .rear, .drive => p.driveLimitRear
  | .front, .regen => p.regenLimitFront
  | .rear, .regen => p.regenLimitRear

/-! ### The internal slots of the Cap Table (R43 to R45) -/

def InternalSlots.source (t : InternalSlots) : InternalSource → ByAxle (ByDir (Option CapSlot))
  | .inverter => t.inverter
  | .link => t.link
  | .slip => t.slip
  | .track => t.track

def InternalSlots.setSource (t : InternalSlots) (src : InternalSource) (v : ByAxle (ByDir (Option CapSlot))) :
    InternalSlots :=
  match src with
  | .inverter => { t with inverter := v }
  | .link => { t with link := v }
  | .slip => { t with slip := v }
  | .track => { t with track := v }

def InternalSlots.get (t : InternalSlots) (src : InternalSource) (x : Axle) (d : Direction) : Option CapSlot :=
  ((t.source src).get x).get d

def InternalSlots.set (t : InternalSlots) (src : InternalSource) (x : Axle) (d : Direction) (v : Option CapSlot) :
    InternalSlots :=
  t.setSource src ((t.source src).set x (((t.source src).get x).set d v))

def setSlot (src : InternalSource) (x : Axle) (d : Direction) (v : Option CapSlot) (s : State) : State :=
  s.setCt { s.ct with slots := s.ct.slots.set src x d v }

/-- The axle has a TRACK entry (R45). -/
def trackHeld (x : Axle) (s : State) : Bool :=
  (s.ct.slots.get .track x .drive).isSome || (s.ct.slots.get .track x .regen).isSome

/-- An internal source posts (R44): a limit above 8000 is stored as 8000, the posted period is the period number as it
stands. CT signals TRACK_x live when the axle's first TRACK slot becomes occupied (R45). -/
def postInternal (src : InternalSource) (x : Axle) (d : Direction) (limit : Nat) (s : State) : State :=
  let s' := setSlot src x d (some ⟨min limit 8000, s.se.periodNumber⟩) s
  if decide (src = .track) && !trackHeld x s then signalReporting (trackFault x) (.live true) s' else s'

/-- An internal source withdraws (R44). CT signals TRACK_x not live when the axle's last TRACK slot becomes empty
(R45). -/
def withdrawInternal (src : InternalSource) (x : Axle) (d : Direction) (s : State) : State :=
  let s' := setSlot src x d none s
  if decide (src = .track) && trackHeld x s && !trackHeld x s' then signalReporting (trackFault x) (.live false) s'
  else s'

/-! ### Notices that OC has left ARMED (R95, R100, R129) -/

/-- A Slip Monitor takes the leaving-ARMED notice (R95). -/
def smLeavesArmed (x : Axle) (s : State) : State :=
  let m := s.sm.get x
  let s1 :=
    match m.cap, m.counting with
    | some _, some d => withdrawInternal .slip x d s
    | _, _ => s
  let s2 := s1.setSm x { m with state := .idle, run := 0, cap := none, counting := none, live := false }
  if m.live then signalReporting (slipFault x) (.live false) s2 else s2

/-- A Tracking Monitor takes the leaving-ARMED notice (R100). -/
def tmLeavesArmed (x : Axle) (s : State) : State := s.setTm x { run := 0 }

/-- OC notifies the monitors that it has left ARMED (R129). The notices are separate events at SM-F, SM-R, TM-F and TM-R, and
the two withdrawals of SLIP entries separate claims at the Cap Table (R60, R95); the model takes them one after the other, in
this order, and no period take falls between them (no rule says whether one can; DESIGN CHOICE, log 39). -/
def notifyLeavingArmed (s : State) : State :=
  tmLeavesArmed .rear (tmLeavesArmed .front (smLeavesArmed .rear (smLeavesArmed .front s)))

/-! ### Trip (R136) -/

/-- A link takes the trip notice: the torque-off break (R110). The frame in flight is cut, the waiting frame is
discarded, and the line is held low; a break being sent starts anew. -/
def torqueOffBreak (x : Axle) (s : State) : State :=
  let l := s.link.get x
  s.setLink x { l with inFlight := none, txBits := 0, waiting := none, breakSending := true }

/-- Output Control takes a trip (R136). In STANDBY a forcing notice changes nothing (R127); in TRIPPED a trip changes
nothing. -/
def trip (cause : TripCause) (s : State) : State :=
  if s.hp.part = .standby then s
  else
    match s.oc.state with
    | .tripped => s
    | .disarmed =>
      torqueOffBreak .rear (torqueOffBreak .front (s.setOc
        { s.oc with state := .tripped, tripRecord := some ⟨cause, s.se.periodNumber⟩ }))
    | .arming =>
      torqueOffBreak .rear (torqueOffBreak .front (s.setOc
        { s.oc with state := .tripped, tripRecord := some ⟨cause, s.se.periodNumber⟩, armWindow := none,
                    lastOutcome := .trip }))
    | .armed =>
      torqueOffBreak .rear (torqueOffBreak .front (notifyLeavingArmed (s.setOc
        { s.oc with state := .tripped, tripRecord := some ⟨cause, s.se.periodNumber⟩, enF := false,
                    enR := false })))

/-- FU takes a signal or a change of a test assertion at the record concerned, and acts outward: the forcing notice, ATTN,
the FAULT NOTICE, in this order (R143). An ARM, another request or a period operation can be taken before OC takes the forcing
notice (R131). What they send, a reply, a SPLIT REPORT, the reply to a SYNC or the FAULT NOTICE of another fault, then enters the
transmit queue before FU offers the FAULT NOTICE of this change; the spec leaves the order open (R161; DESIGN CHOICE, log 35). -/
def signal (c : FaultCode) (ch : FaultChange) (s : State) (g : Gaps := noGaps) : State :=
  let old := faultRecord c s
  let s1 := takeAtRecord c ch s
  let s2 := if givesForcingNotice c old ch then trip (.fault c) (g .forcing s1) else s1
  actOutward c old s2

/-! ### Link state changes (R118 to R120) -/

/-- The link is out: LOST or BROKEN (R120). -/
def LinkState.isOut : LinkState → Bool
  | .lost | .broken => true
  | _ => false

/-- The link's LINK entries are present: STARTING, LOST or BROKEN (R118). -/
def LinkState.isBlocked : LinkState → Bool
  | .starting | .lost | .broken => true
  | _ => false

/-- A link posts its LINK entries: limit 0 in both directions (R118), as two claims: a period take can fall before the first
and between them (R44, R60). The DRIVE claim comes first (no rule orders the two; DESIGN CHOICE, log 33). -/
def postLinkCaps (x : Axle) (s : State) (g : Gaps := noGaps) : State :=
  postInternal .link x .regen 0 (g .link (postInternal .link x .drive 0 (g .beforeLink s)))

/-- A link withdraws its LINK entries (R118), as two claims (R44, R60), DRIVE first (no rule orders the two; DESIGN CHOICE,
log 33). -/
def withdrawLinkCaps (x : Axle) (s : State) (g : Gaps := noGaps) : State :=
  withdrawInternal .link x .regen (g .link (withdrawInternal .link x .drive (g .beforeLink s)))

/-- The out record after a link's claim. -/
def OutRecord.claim (o : OutRecord) (x : Axle) (isOut : Bool) : OutRecord :=
  match x with
  | .front => { o with frontOut := isOut }
  | .rear => { o with rearOut := isOut }

/-- A link's claim on the out record, which signals NO_AXLE when its condition changes (R120). -/
def outClaim (x : Axle) (isOut : Bool) (s : State) (g : Gaps := noGaps) : State :=
  let o := s.out.claim x isOut
  let live := o.frontOut && o.rearOut
  if live = o.noAxleLive then s.setOut o
  else signal .noAxle (.live live) (s.setOut { o with noAxleLive := live }) g

/-- OC takes the notice that a link has left SYNCED: ARMING ends with outcome LINK (R134). -/
def linkLeftSynced (s : State) : State :=
  if s.oc.state = .arming then
    s.setOc { s.oc with state := .disarmed, armWindow := none, lastOutcome := .link }
  else s

/-- A link takes a state change and makes its claims: LINK entries (R118), LINK_x_LOST and LINK_x_BREAK (R119), the out
record (R120), the leaving notice to OC (R119); in the order of the worked sequence 10.2 (log 22). -/
def moveLink (x : Axle) (new : LinkState) (s : State) (g : Gaps := noGaps) : State :=
  let old := (s.link.get x).state
  let s1 := s.setLink x { s.link.get x with state := new }
  let s2 :=
    if !old.isBlocked && new.isBlocked then postLinkCaps x s1 g
    else if old.isBlocked && !new.isBlocked then withdrawLinkCaps x s1 g
    else s1
  let s3 := if old = .lost ∧ new ≠ .lost then signalReporting (linkLostFault x) (.live false) s2 else s2
  let s4 := if old = .broken ∧ new ≠ .broken then signalReporting (linkBreakFault x) (.live false) s3 else s3
  let s5 := if old ≠ .lost ∧ new = .lost then signalReporting (linkLostFault x) (.live true) s4 else s4
  let s6 := if old ≠ .broken ∧ new = .broken then signalReporting (linkBreakFault x) (.live true) s5 else s5
  let s7 := if old.isOut = new.isOut then s6 else outClaim x new.isOut s6 g
  if old = .synced ∧ new ≠ .synced then linkLeftSynced s7 else s7

/-! ### HOST_LINK (R156) -/

/-- HP evaluates HOST_LINK and signals a change (R156). -/
def evaluateHostLink (s : State) : State :=
  let live := decide (s.hp.part = .ready) && decide (s.hp.params.hostErrorLimit ≤ s.hp.badFrames)
  if live = s.hp.hostLinkLive then s
  else signalReporting .hostLink (.live live) (s.setHp { s.hp with hostLinkLive := live })

/-! ### Taking a request (R158 to R160) -/

/-- HP can take the request at the head of its queue: a place of the transmit queue is free beyond the one kept for a
pending SYNC, and no RESET has been taken (R158, R167). -/
def canTake (s : State) : Bool :=
  decide (s.hp.txQueue.length + (if s.hp.pendingSync.isSome then 1 else 0) < Config.transmitPlaces)
    && !s.hp.resetTaken

/-- A request leaves the queue when HP takes it (R157). -/
def popRequest (s : State) : State := s.setHp { s.hp with requestQueue := s.hp.requestQueue.tail }

/-- Checks 2 and 3 of R158, then the owner. -/
def dispatch (k : RequestKind) (owner : HostFrame → State → State) (f : HostFrame) (s : State) : State :=
  if k.lengthOk f.payload.length = false then reply f .length [] s
  else if k.refusedByState s.hp.part then reply f .state k.stateRefusalFields s
  else owner f s

/-- HP takes the request at the head of the queue where it is of this kind and HP can take one; otherwise no such request
is taken and nothing changes (R158, log 2, log 10). -/
def takeRequest (k : RequestKind) (owner : HostFrame → State → State) (s : State) : State :=
  match s.hp.requestQueue with
  | [] => s
  | f :: _ => if canTake s && decide (f.kind = k.code) then dispatch k owner f (popRequest s) else s

end Sys2Proof.Machine
end

