-- ==== Sys2Proof/Machine/CapRequests.lean ====
section
/-! DEFINITION. The CAP requests: CAP POST, CAP WITHDRAW, CAP WITHDRAW SOURCE, CAP LIST (R46 to R57). -/

namespace Sys2Proof.Machine

/-- The entry has this key (R42). -/
def HostEntry.hasKey (e : HostEntry) (src : HostSource) (x : Axle) (d : Direction) : Bool :=
  decide (e.source = src) && decide (e.axle = x) && decide (e.dir = d)

/-- The key is in the pool (R46). -/
def poolHas (pool : List HostEntry) (src : HostSource) (x : Axle) (d : Direction) : Bool :=
  pool.any fun e => e.hasKey src x d

/-- One key of a CAP POST (R49): an entry of this key is replaced in place, otherwise a new one joins at the end. -/
def postKey (e : HostEntry) (pool : List HostEntry) : List HostEntry :=
  if poolHas pool e.source e.axle e.dir then
    pool.map fun old => if old.hasKey e.source e.axle e.dir then e else old
  else pool ++ [e]

/-- The entry a CAP POST makes for an axle (R49): an expiry of 0 is none. -/
def postedEntry (src : HostSource) (d : Direction) (limit expiry period : Nat) (x : Axle) : HostEntry where
  source := src
  axle := x
  dir := d
  limit := limit
  posted := period
  remaining := if expiry = 0 then none else some expiry

/-- How many places a post needs: the keys it names that are not in the pool (R48). -/
def placesNeeded (pool : List HostEntry) (src : HostSource) (d : Direction) (axles : List Axle) : Nat :=
  (axles.filter fun x => !poolHas pool src x d).length

/-- The pool after a post of these axles, FRONT first (R49, R50). -/
def postAxles (src : HostSource) (d : Direction) (limit expiry period : Nat) (axles : List Axle)
    (pool : List HostEntry) : List HostEntry :=
  axles.foldl (fun p x => postKey (postedEntry src d limit expiry period x) p) pool

def setPool (pool : List HostEntry) (s : State) : State := s.setCt { s.ct with pool := pool }

/-- A CAP request's pool count field. -/
def poolCount (s : State) : List Byte := u8 s.ct.pool.length

/-- A CAP POST that names a host source (R48 check 3, R49, R50). -/
def postHost (f : HostFrame) (src : HostSource) (d : Direction) (limit expiry : Nat) (axles : List Axle) (s : State) :
    State :=
  if Config.poolPlaces < s.ct.pool.length + placesNeeded s.ct.pool src d axles then
    reply f .full (poolCount s) (signalReporting .capFull .event s)
  else
    let s1 := setPool (postAxles src d limit expiry s.se.periodNumber axles s.ct.pool) s
    reply f .ok (poolCount s1) s1

/-- CAP POST at its owner (R48). -/
def ownerCapPost (f : HostFrame) (s : State) : State :=
  let limit := u16At f.payload 3
  let expiry := u16At f.payload 5
  match readSource (u8At f.payload 0), readAxles (u8At f.payload 1), readDir (u8At f.payload 2) with
  | some src, some axles, some d =>
    if 8000 < limit ∨ 60000 < expiry then reply f .range (poolCount s) s
    else
      match src with
      | .internal _ => reply f .guarded (poolCount s) s
      | .host h => postHost f h d limit expiry axles s
  | _, _, _ => reply f .range (poolCount s) s

def execCapPost (s : State) : Answer := inOperation (takeRequest .capPost ownerCapPost) s

/-- CAP WITHDRAW at its owner (R55). -/
def ownerCapWithdraw (f : HostFrame) (s : State) : State :=
  match readSource (u8At f.payload 0), readAxle (u8At f.payload 1), readDir (u8At f.payload 2) with
  | some (.host h), some x, some d =>
    if poolHas s.ct.pool h x d then
      let s1 := setPool (s.ct.pool.filter fun e => !e.hasKey h x d) s
      reply f .ok (poolCount s1) s1
    else reply f .notFound (poolCount s) s
  | some (.internal _), some _, some _ => reply f .guarded (poolCount s) s
  | _, _, _ => reply f .range (poolCount s) s

def execCapWithdraw (s : State) : Answer := inOperation (takeRequest .capWithdraw ownerCapWithdraw) s

/-- The TRACK slots that are occupied, over both axles and both directions. -/
def trackCountHeld (s : State) : Nat :=
  flag (s.ct.slots.get .track .front .drive).isSome + flag (s.ct.slots.get .track .front .regen).isSome
    + flag (s.ct.slots.get .track .rear .drive).isSome + flag (s.ct.slots.get .track .rear .regen).isSome

/-- Every TRACK slot is emptied; CT signals TRACK_F and TRACK_R not live for each axle that had an entry (R45, R56). -/
def withdrawTrack (s : State) : State :=
  withdrawInternal .track .rear .regen (withdrawInternal .track .rear .drive
    (withdrawInternal .track .front .regen (withdrawInternal .track .front .drive s)))

/-- CAP WITHDRAW SOURCE at its owner (R56). A refusal names no number removed (R160) and carries the pool count (R46). -/
def ownerCapWithdrawSource (f : HostFrame) (s : State) : State :=
  match readSource (u8At f.payload 0) with
  | none => reply f .range (u8 0 ++ poolCount s) s
  | some (.internal .track) =>
    let s1 := withdrawTrack s
    reply f .ok (u8 (trackCountHeld s) ++ poolCount s1) s1
  | some (.internal _) => reply f .guarded (u8 0 ++ poolCount s) s
  | some (.host h) =>
    let kept := s.ct.pool.filter fun e => !decide (e.source = h)
    let s1 := setPool kept s
    reply f .ok (u8 (s.ct.pool.length - kept.length) ++ poolCount s1) s1

def execCapWithdrawSource (s : State) : Answer :=
  inOperation (takeRequest .capWithdrawSource ownerCapWithdrawSource) s

/-! ### CAP LIST (R57) -/

/-- One entry of a list: key byte, limit, posted period, remaining expiry (R172). -/
def listEntry (source : Nat) (x : Axle) (d : Direction) (limit posted remaining : Nat) : List Byte :=
  u8 (source + 8 * axleCode x + 16 * dirCode d) ++ u16 limit ++ u32 posted ++ u16 remaining

/-- The keys of the internal slots, in the order of R43. -/
def slotOrder : List (InternalSource × Axle × Direction) :=
  [(.inverter, .front, .drive), (.inverter, .front, .regen), (.inverter, .rear, .drive), (.inverter, .rear, .regen),
   (.link, .front, .drive), (.link, .front, .regen), (.link, .rear, .drive), (.link, .rear, .regen)]
  ++ [(.slip, .front, .drive), (.slip, .front, .regen), (.slip, .rear, .drive), (.slip, .rear, .regen),
   (.track, .front, .drive), (.track, .front, .regen), (.track, .rear, .drive), (.track, .rear, .regen)]

/-- The whole table in listing order (R57). -/
def listing (t : CapTable) : List (List Byte) :=
  (slotOrder.filterMap fun k =>
    (t.slots.get k.1 k.2.1 k.2.2).map fun v => listEntry k.1.code k.2.1 k.2.2 v.limit v.posted 0)
  ++ t.pool.map fun e => listEntry (hostSourceCode e.source) e.axle e.dir e.limit e.posted (e.remaining.getD 0)

/-- CAP LIST at its owner (R57). -/
def ownerCapList (f : HostFrame) (s : State) : State :=
  let all := listing s.ct
  let page := (all.drop (u8At f.payload 0)).take 8
  reply f .ok (u8 all.length ++ u8 page.length ++ page.flatten) s

def execCapList (s : State) : Answer := inOperation (takeRequest .capList ownerCapList) s

end Sys2Proof.Machine
end

