-- ==== Sys2Proof/Machine/Monitors.lean ====
section
/-! DEFINITION. The Slip Monitors and the Tracking Monitors: what they do with a direction and with an accepted frame
(R84 to R100). -/

namespace Sys2Proof.Machine

/-- The direction of a sign; none for 0 (R86). -/
def signDirection (z : Int) : Option Direction :=
  if 0 < z then some .drive else if z < 0 then some .regen else none

/-- SM withdraws its SLIP entry and gives up its slip cap, entering GRIP with run count 0 and signalling SLIP_x not live
(R92, R94). `d` is the direction of the entry. -/
def smRelease (x : Axle) (d : Direction) (s : State) : State :=
  let s1 := withdrawInternal .slip x d s
  let s2 := s1.setSm x { s1.sm.get x with state := .grip, run := 0, cap := none, live := false }
  signalReporting (slipFault x) (.live false) s2

/-- SM takes a direction change (R94), `d` being the old counting direction. -/
def smDirectionChange (x : Axle) (d : Direction) (s : State) : State :=
  match (s.sm.get x).state with
  | .idle => s
  | .grip => s.setSm x { s.sm.get x with run := 0 }
  | .slip | .recover => smRelease x d s

/-- SM takes the monitored direction SE passes (R86). -/
def smDirection (x : Axle) (dir : Int) (s : State) : State :=
  let s1 := s.setSm x { s.sm.get x with monitored := dir }
  match signDirection dir, (s.sm.get x).counting with
  | none, _ => s1
  | some d, none => s1.setSm x { s1.sm.get x with counting := some d }
  | some d, some old =>
    if d = old then s1
    else
      let s2 := smDirectionChange x old s1
      s2.setSm x { s2.sm.get x with counting := some d }

/-- The slip of a frame, signed permille of ground speed (R87). -/
def slipOf (vAxle vRef : Int) : Int := Int.tdiv ((vAxle - vRef) * 1000) (max (vRef.natAbs : Int) 100)

/-- The three bands of R88. -/
inductive Band where
  | excess
  | hold
  | release
  deriving DecidableEq, Repr

/-- The band of a test value (R88). -/
def bandOf (p : Profile) (test : Int) : Band :=
  if (p.slipOn : Int) ≤ test then .excess else if (p.slipOff : Int) ≤ test then .hold else .release

/-- The test value: the slip when counting in DRIVE, its negation in REGEN (R88). -/
def testValue (d : Direction) (slip : Int) : Int :=
  match d with
  | .drive => slip
  | .regen => -slip

/-- SM evaluates a frame (R89). -/
def smEvaluates (x : Axle) (linkState : LinkState) (s : State) : Bool :=
  decide (s.oc.state = .armed) && decide (linkState = .synced) && s.di.refSpeedKnown
    && (signDirection (s.sm.get x).monitored).isSome

/-- The direction SM judges in. SM has a counting direction whenever it evaluates a frame (R86); were it none, the
monitored direction would become it (log 24). -/
def judgedDirection (x : Axle) (s : State) : Direction :=
  ((s.sm.get x).counting).getD ((signDirection (s.sm.get x).monitored).getD .drive)

/-- SM sets its slip cap and posts it in the direction it judges in, which is its counting direction (R93, log 24). -/
def smPost (x : Axle) (d : Direction) (m : SlipMonitor) (cap : Nat) (s : State) : State :=
  postInternal .slip x d cap (s.setSm x { m with counting := some d, cap := some cap })

/-- An evaluated frame in GRIP (R90). -/
def smGrip (x : Axle) (d : Direction) (band : Band) (torque : Int) (s : State) : State :=
  let m := s.sm.get x
  let p := activeProfile s
  match band with
  | .excess =>
    if p.slipCount ≤ m.run + 1 then
      let cap := min (max p.slipFloor (torque.natAbs - p.cutStep)) 8000
      signalReporting (slipFault x) (.live true)
        (smPost x d { m with state := .slip, run := 0, live := true } cap s)
    else s.setSm x { m with run := satInc 16 m.run }
  | .hold | .release => s.setSm x { m with run := 0 }

/-- SM cuts its slip cap and posts it, in SLIP (R91, R92). -/
def smCut (x : Axle) (d : Direction) (s : State) : State :=
  let m := s.sm.get x
  let p := activeProfile s
  smPost x d { m with state := .slip } (max p.slipFloor (m.cap.getD 0 - p.cutStep)) s

/-- An evaluated frame in SLIP (R91). -/
def smSlip (x : Axle) (d : Direction) (band : Band) (s : State) : State :=
  match band with
  | .excess => smCut x d s
  | .hold => s
  | .release => s.setSm x { s.sm.get x with state := .recover }

/-- An evaluated frame in RECOVER (R92). -/
def smRecover (x : Axle) (d : Direction) (band : Band) (s : State) : State :=
  let m := s.sm.get x
  let p := activeProfile s
  match band with
  | .release =>
    let cap := m.cap.getD 0 + p.recoverStep
    if p.limit x d ≤ cap then smRelease x d s else smPost x d m cap s
  | .hold => s
  | .excess => smCut x d s

/-- SM takes a frame handed over with this link state (R84, R89 to R92). -/
def smFrame (x : Axle) (f : StatusFrame) (linkState : LinkState) (s : State) : State :=
  if smEvaluates x linkState s then
    let d := judgedDirection x s
    let band := bandOf (activeProfile s) (testValue d (slipOf f.speed s.di.refSpeed))
    match (s.sm.get x).state with
    | .idle => s.setSm x { s.sm.get x with state := .grip, run := 0 }
    | .grip => smGrip x d band f.torque s
    | .slip => smSlip x d band s
    | .recover => smRecover x d band s
  else s

/-- A link's stale-echo counter increases (R98, R126). -/
def countStaleEcho (x : Axle) (s : State) : State :=
  let l := s.link.get x
  s.setLink x { l with counters := { l.counters with staleEchoes := satInc 65535 l.counters.staleEchoes } }

/-- TM posts the TRACK entries of its axle: limit 0 in both directions, as two claims: a period take or a CAP WITHDRAW SOURCE
TRACK can fall between them (R56, R99). The DRIVE claim comes first (no rule orders the two; DESIGN CHOICE, log 33). -/
def postTrack (x : Axle) (s : State) (g : Gaps := noGaps) : State :=
  postInternal .track x .regen 0 (g .track (postInternal .track x .drive 0 s))

/-- TM judges a frame against the commanded torque (R99). -/
def tmJudge (x : Axle) (actual commanded : Int) (s : State) (g : Gaps := noGaps) : State :=
  let p := activeProfile s
  let run := (s.tm.get x).run
  if p.trackThreshold < (actual - commanded).natAbs then
    if p.trackCount ≤ run + 1 then postTrack x (s.setTm x { run := 0 }) g
    else s.setTm x { run := satInc 64 run }
  else s.setTm x { run := 0 }

/-- The ring entry with a seq (R98, R106). -/
def ringFind (ring : List RingEntry) (seq : Byte) : Option RingEntry := ring.find? fun e => decide (e.seq = seq)

/-- TM takes a frame handed over (R98). -/
def tmFrame (x : Axle) (f : StatusFrame) (s : State) (g : Gaps := noGaps) : State :=
  match ringFind (s.link.get x).ring f.echo with
  | none => countStaleEcho x s
  | some e => if e.enable && decide (s.oc.state = .armed) then tmJudge x f.torque e.torque s g else s

end Sys2Proof.Machine
end

