-- ==== Sys2Proof/Machine/LinkRx.lean ====
section
/-! DEFINITION. The receive side of an axle link: the framing of bytes, and the accepted and bad status frames
(R112 to R116, R121, R122, R124). -/

namespace Sys2Proof.Machine

/-! ### An accepted frame (R114) -/

/-- The notice slot takes a frame's notice (R121), and then the acknowledged code is cleared where the frame's code differs
from it (R122). -/
def takeNotice (x : Axle) (code : Byte) (arg : Nat) (s : State) : State :=
  let l := s.link.get x
  let ack' := if l.ackCode = some code then l.ackCode else none
  if code = 0 ∨ l.ackCode = some code then s.setLink x { l with ackCode := ack' }
  else
    match l.notice with
    | none => s.setLink x { l with notice := some (code, arg), ackCode := ack' }
    | some held =>
      if held.1 = code ∨ l.lostNotice = some code then s.setLink x { l with ackCode := ack' }
      else
        signalReporting .noticeLost .event
          (s.setLink x
            { l with
              lostNotice := some code
              ackCode := ack'
              counters := { l.counters with noticesLost := satInc 65535 l.counters.noticesLost } })

/-- The outbound service slot takes a frame's service echo (R124). -/
def takeEcho (x : Axle) (echo : Byte) (s : State) : State :=
  let l := s.link.get x
  if l.service.state = .sent ∧ l.service.code = echo then
    s.setLink x { l with service := { l.service with state := .done } }
  else s

/-- Step 6 of R114: the state change of an accepted frame. -/
def acceptState (x : Axle) (s : State) (g : Gaps := noGaps) : State :=
  let l := s.link.get x
  match l.state with
  | .hunt => moveLink x .synced s g
  | .starting | .lost =>
    if s.hp.params.linkRecoverFrames ≤ l.recovery + 1 then
      moveLink x .synced (s.setLink x { l with recovery := 0 }) g
    else s.setLink x { l with recovery := l.recovery + 1 }
  | .off | .synced | .broken => s

/-- Steps 1 and 2 of R114: link timer, counter, last status record; the consecutive bad count becomes 0 (R112). -/
def acceptRecord (x : Axle) (f : StatusFrame) (s : State) : State :=
  let l := s.link.get x
  s.setLink x
    { l with
      timer := some s.hp.params.linkTimeoutMs
      acceptedSinceReady := true
      badRun := 0
      counters := { l.counters with framesAccepted := satInc 65535 l.counters.framesAccepted }
      lastStatus := some ⟨f.flags, f.torque, f.availDrive, f.availRegen, f.speed⟩ }

/-- Step 3 of R114: the INVERTER entries, as two claims: a period take can fall between them (R44, R60). The DRIVE
claim comes first (no rule orders the two; DESIGN CHOICE, log 33). -/
def postInverter (x : Axle) (f : StatusFrame) (s : State) (g : Gaps := noGaps) : State :=
  postInternal .inverter x .regen f.availRegen (g .inverter (postInternal .inverter x .drive f.availDrive s))

/-- The receiver accepts a status frame (R114). The two monitors take it one by one, with the link state as step 6 left it;
a period take can fall between the frame's claims (R84). The Slip Monitor takes it first (R84 leaves the order open; DESIGN
CHOICE, log 34). -/
def acceptFrame (x : Axle) (f : StatusFrame) (s : State) (g : Gaps := noGaps) : State :=
  let s1 := postInverter x f (acceptRecord x f s) g
  let s2 := takeEcho x f.serviceEcho (takeNotice x f.noticeCode f.noticeArg s1)
  let s3 := acceptState x s2 g
  let s4 := smFrame x f (s3.link.get x).state (g .handOver s3)
  tmFrame x f (g .monitors s4) g

/-! ### A bad frame or candidate (R112, R113) -/

/-- A frame in SYNCED, or a candidate in another state, is judged bad. -/
def badFrame (x : Axle) (s : State) : State :=
  let l := s.link.get x
  let l1 := { l with counters := { l.counters with badFrames := satInc 65535 l.counters.badFrames } }
  match l.state with
  | .synced =>
    if 3 ≤ l.badRun + 1 then moveLink x .hunt (s.setLink x { l1 with badRun := 0 })
    else s.setLink x { l1 with badRun := l.badRun + 1 }
  | .starting | .lost => s.setLink x { l1 with recovery := 0 }
  | .off | .hunt | .broken => s.setLink x l1

/-- `n` candidates are judged bad, one after the other. -/
def badFrames (x : Axle) : Nat → State → State
  | 0, s => s
  | n + 1, s => badFrames x n (badFrame x s)

/-! ### Framing -/

/-- What the scan for the sync word keeps of the bytes received (R113): everything from the first sync word on, or a last
byte that may begin one. -/
def scanSync : List Byte → List Byte
  | [] => []
  | [a] => if a = 0x6B#8 then [a] else []
  | a :: b :: rest => if a = 0x6B#8 ∧ b = 0x94#8 then a :: b :: rest else scanSync (b :: rest)

/-- How many candidates begin in the bytes received: a cut judges each of them bad, since after each the scan resumes at
the byte that followed its 0x6B (R113, log 16). -/
def candidates : List Byte → Nat
  | [] => 0
  | [_] => 0
  | a :: b :: rest => (if a = 0x6B#8 ∧ b = 0x94#8 then 1 else 0) + candidates (b :: rest)

/-- What is left of the bytes received after a cut outside SYNCED: a last byte that may begin a sync word (log 16). -/
def scanTail : List Byte → List Byte
  | [] => []
  | [a] => if a = 0x6B#8 then [a] else []
  | _ :: b :: rest => scanTail (b :: rest)

def setPartial (x : Axle) (bytes : List Byte) (s : State) : State :=
  s.setLink x { s.link.get x with partialBytes := bytes, rxGapUs := 0, lowLineUs := 0 }

/-- A byte arrives in SYNCED (R112): the frame is judged when its 18th byte arrives. No byte of a bad frame is kept. After the third
in a row the scan of HUNT begins with the next byte, and does not look for a sync word in that frame; R112 and R113 do not say
which bytes it takes in (DESIGN CHOICE, log 41). -/
def syncedByte (x : Axle) (b : Byte) (s : State) (g : Gaps := noGaps) : State :=
  let held := (s.link.get x).partialBytes ++ [b]
  if held.length < 18 then setPartial x held s
  else if beginsWithSync held && statusCrcGood held then acceptFrame x (readStatusFrame held) (setPartial x [] s) g
  else badFrame x (setPartial x [] s)

/-- A byte arrives in STARTING, HUNT or LOST (R113): a candidate is judged when it has 18 bytes; after a bad one the scan
resumes at the byte that followed its 0x6B. -/
def huntingByte (x : Axle) (b : Byte) (s : State) (g : Gaps := noGaps) : State :=
  let held := scanSync ((s.link.get x).partialBytes ++ [b])
  if held.length < 18 then setPartial x held s
  else if statusCrcGood held then acceptFrame x (readStatusFrame held) (setPartial x [] s) g
  else badFrame x (setPartial x (scanSync held.tail) s)

/-- A byte arrives on a link's receive line. In OFF the link receives nothing; while the line is held low, in BROKEN, no
bytes arrive (R104, 6.4). -/
def receiveByte (x : Axle) (s : State) (b : Byte) (g : Gaps := noGaps) : State :=
  match (s.link.get x).state with
  | .off | .broken => s
  | .synced => syncedByte x b s g
  | .starting | .hunt | .lost => huntingByte x b s g

/-- Bytes arrive one after the other. While REFCLK is absent the receiver takes none (R101). -/
def receiveBytes (x : Axle) (bytes : List Byte) (s : State) (g : Gaps := noGaps) : State :=
  if s.tb.refclk then bytes.foldl (fun s b => receiveByte x s b g) s else s

/-- A cut outside SYNCED: each candidate in progress is judged bad; outside a candidate it changes nothing (R113). -/
def cutHunting (x : Axle) (s : State) : State :=
  let held := scanSync (s.link.get x).partialBytes
  if 0 < candidates held then
    badFrames x (candidates held) (s.setLink x { s.link.get x with partialBytes := scanTail held, rxGapUs := 0 })
  else s

/-- A byte with a low stop bit arrives (R101). In SYNCED it cuts the frame it belongs to, which it may have begun
(R112, log 16), and no byte of that frame is kept, also where the link then enters HUNT (DESIGN CHOICE, log 41). -/
def framingErrorAt (x : Axle) (s : State) : State :=
  match (s.link.get x).state with
  | .off | .broken => s
  | .synced => badFrame x (s.setLink x { s.link.get x with partialBytes := [], rxGapUs := 0 })
  | .starting | .hunt | .lost => cutHunting x s

/-- A gap of more than 10 µs after a byte (R112, R113). In SYNCED no byte of the frame it cuts is kept, also where the link then
enters HUNT (DESIGN CHOICE, log 41). -/
def gapCutAt (x : Axle) (s : State) : State :=
  match (s.link.get x).state with
  | .off | .broken => s
  | .synced =>
    if (s.link.get x).partialBytes = [] then s
    else badFrame x (s.setLink x { s.link.get x with partialBytes := [], rxGapUs := 0 })
  | .starting | .hunt | .lost => cutHunting x s

end Sys2Proof.Machine
end

