-- ==== Sys2Proof/Machine/LinkTx.lean ====
section
/-! DEFINITION. The transmit side of an axle link: forming, starting and ending command frames, and the torque-off break
(R105 to R111, R124, R175). -/

namespace Sys2Proof.Machine

/-- What SE issues to a link (R15). -/
structure Issue where
  torque : Int
  enable : Bool
  period : Nat
  driveLimit : Nat
  regenLimit : Nat
  deriving DecidableEq, Repr

/-- The outbound service slot at a frame start (R124): the slot after it, and the code and argument the frame carries. -/
def ServiceSlot.atStart (v : ServiceSlot) : ServiceSlot × Option (Byte × Nat) :=
  match v.state with
  | .empty | .done | .timedOut => (v, none)
  | .queued => ({ v with state := .sent, sentCount := 1 }, some (v.code, v.argument))
  | .sent =>
    if v.sentCount < 16 then ({ v with sentCount := v.sentCount + 1 }, some (v.code, v.argument))
    else ({ v with state := .timedOut }, none)

/-- The ring entry of a frame takes the values the frame starts with (R106). -/
def clearRingEntry (ring : List RingEntry) (seq : Byte) : List RingEntry :=
  ring.map fun e => if e.seq = seq then { e with torque := 0, enable := false } else e

/-- The frame as R107 fills it at its start: an enable flag set while OC is not ARMED is cleared and the torque command
is 0. -/
def fillFrame (f : FormedFrame) (armed : Bool) (service : Option (Byte × Nat)) (ack : Option Byte) : StartedFrame :=
  let unsafeStart := f.enable && !armed
  let g : StartedFrame :=
    { seq := f.seq, enable := f.enable && armed, torque := if unsafeStart then 0 else f.torque,
      driveLimit := f.driveLimit, regenLimit := f.regenLimit, service := service, ack := ack, crc := 0 }
  { g with crc := crc16 g.covered }

/-- A command frame starts on the line (R107). -/
def startFrame (x : Axle) (f : FormedFrame) (s : State) : State :=
  let l := s.link.get x
  let armed := decide (s.oc.state = .armed)
  let slot := l.service.atStart
  let timedOut := decide (l.service.state = .sent) && decide (slot.1.state = .timedOut)
  s.setLink x
    { l with
      ring := if f.enable && !armed then clearRingEntry l.ring f.seq else l.ring
      service := slot.1
      inFlight := some (fillFrame f armed slot.2 l.ackCode)
      txBits := 0
      lastStarted := some f.seq
      counters :=
        { l.counters with
          framesSent := satInc 65535 l.counters.framesSent
          serviceTimeouts :=
            if timedOut then satInc 65535 l.counters.serviceTimeouts else l.counters.serviceTimeouts } }

/-- The last four entries of a ring (R106). -/
def keepFour (ring : List RingEntry) : List RingEntry := ring.drop (ring.length - 4)

/-- The frame a link forms from an issue, with the sequence number after its increase (R105 steps 1 and 2). -/
def formFrame (l : AxleLink) (i : Issue) : FormedFrame where
  seq := l.frameSeq + 1
  enable := i.enable
  torque := i.torque
  driveLimit := i.driveLimit
  regenLimit := i.regenLimit
  period := i.period

/-- The line is busy: a frame in flight or a break being sent (R105). -/
def AxleLink.lineBusy (l : AxleLink) : Bool := l.inFlight.isSome || l.breakSending

/-- A link takes an issue (R105). -/
def takeIssue (x : Axle) (i : Issue) (s : State) : State :=
  let l := s.link.get x
  let f := formFrame l i
  let l1 :=
    { l with frameSeq := f.seq, ring := keepFour (l.ring ++ [⟨f.seq, f.torque, f.enable, f.period⟩]) }
  if !l.lineBusy then startFrame x f (s.setLink x l1)
  else
    match l.waiting with
    | none => s.setLink x { l1 with waiting := some f }
    | some _ =>
      s.setLink x { l1 with waiting := some f,
                            counters := { l1.counters with replaced := satInc 65535 l1.counters.replaced } }

/-- The line is freed, and a waiting frame starts at once (R107, R108, R110). -/
def startWaiting (x : Axle) (s : State) : State :=
  let l := s.link.get x
  match l.waiting with
  | none => s
  | some f => startFrame x f (s.setLink x { l with waiting := none })

/-- A link takes the DISARM notice: its waiting frame is discarded (R109). -/
def disarmNotice (x : Axle) (s : State) : State := s.setLink x { s.link.get x with waiting := none }

/-- What a software reset leaves on the transmit line: the frame in flight completes, from the bit where it stands, and a
break runs out (R101, R111). -/
def AxleLink.tailAfterReset (l : AxleLink) : LineTail :=
  match l.inFlight, l.breakSending with
  | some f, _ => .frame f l.txBits
  | none, true => .brk
  | none, false => l.tail

end Sys2Proof.Machine
end

