-- ==== Sys2Proof/Machine/OutputRequests.lean ====
section
/-! DEFINITION. The requests of Output Control: ARM, DISARM, TORQUE OFF, CLEAR TRIP (R130, R135, R137, R138). -/

namespace Sys2Proof.Machine

/-- A test assertion is set on one of the fifteen faults (R130 condition 5). -/
def anyTest (s : State) : Bool := faultCodes.any fun c => (faultRecord c s).test

/-- A FORCING fault is live (R130 condition 6). -/
def anyForcingLive (s : State) : Bool := forcingCodes.any fun c => (faultRecord c s).live

/-- The number of the first condition of R130 that fails; none where the ARM is taken. -/
def armRefusal (s : State) : Option Nat :=
  if s.hp.part ≠ .ready then some 1
  else if s.oc.state ≠ .disarmed then some 2
  else if s.link.front.state ≠ .synced then some 3
  else if s.link.rear.state ≠ .synced then some 4
  else if anyTest s then some 5
  else if anyForcingLive s then some 6
  else none

/-- OC enters ARMING (R130). -/
def startArming (s : State) : State :=
  s.setOc { s.oc with state := .arming, armMark := s.di.acceptedCount,
                      armWindow := some s.hp.params.armWindowMs, lastOutcome := .none }

/-- ARM at its owner (R130). -/
def ownerArm (f : HostFrame) (s : State) : State :=
  match armRefusal s with
  | some n => reply f .state (u8 n) s
  | none => reply f .ok (u8 0) (startArming s)

def execArm (s : State) : Answer := inOperation (takeRequest .arm ownerArm) s

/-- OC leaves ARMED or ARMING by a DISARM (R135): the lines, the monitors and the links (R129). -/
def disarmFrom (s : State) : State :=
  match s.oc.state with
  | .armed =>
    disarmNotice .rear (disarmNotice .front (notifyLeavingArmed
      (s.setOc { s.oc with state := .disarmed, enF := false, enR := false })))
  | .arming =>
    disarmNotice .rear (disarmNotice .front
      (s.setOc { s.oc with state := .disarmed, armWindow := none, lastOutcome := .disarm }))
  | .disarmed | .tripped => s

/-- DISARM at its owner (R135). -/
def ownerDisarm (f : HostFrame) (s : State) : State :=
  if s.oc.state = .tripped then reply f .state [] s else reply f .ok [] (disarmFrom s)

def execDisarm (s : State) : Answer := inOperation (takeRequest .disarm ownerDisarm) s

/-- TORQUE OFF at its owner (R137): a trip with cause HOST; the reply carries the trip record. -/
def ownerTorqueOff (f : HostFrame) (s : State) : State :=
  let s1 := trip .host s
  reply f .ok (tripFields s1.oc.tripRecord) s1

def execTorqueOff (s : State) : Answer := inOperation (takeRequest .torqueOff ownerTorqueOff) s

/-- CLEAR TRIP at its owner (R138). -/
def ownerClearTrip (f : HostFrame) (s : State) : State :=
  if s.oc.state = .tripped then
    match lowestForcing s with
    | none => reply f .ok (u8 0) (s.setOc { s.oc with state := .disarmed })
    | some c => reply f .state (u8 c.code) s
  else reply f .state (u8 0) s

def execClearTrip (s : State) : Answer := inOperation (takeRequest .clearTrip ownerClearTrip) s

end Sys2Proof.Machine
end

