-- ==== Sys2Proof/Machine/SplitMath.lean ====
section
/-! DEFINITION. The arithmetic of the split period: held demand, shares, effective caps, split, clamp, transfer, slew and
shortfall (R9 to R13, R28, R35, R37, R59, R67, R80). Every division truncates toward zero (00 "Arithmetic"). -/

namespace Sys2Proof.Machine

/-! ### Demand (R28, R35, R37) -/

/-- A number is later than a mark, in the order of R28: counting forward from the mark, through 65535 to 1 and skipping 0,
reaches it in 1 to 32767 steps; every nonzero number is later than 0. -/
def laterThan (n mark : Nat) : Bool :=
  if n = 0 then false
  else if mark = 0 then true
  else
    let steps := (n + 65535 - mark) % 65535
    decide (1 ≤ steps) && decide (steps ≤ 32767)

/-- The accepted-demand count after one more DEMAND: from 65535 it wraps to 1 (R28). -/
def nextAccepted (n : Nat) : Nat := if n = 65535 then 1 else n + 1

/-- The held demand of a period (R35). -/
def heldDemand (current : Option CurrentDemand) (hold decay : Nat) (prev : Int) : Int :=
  match current with
  | none => 0
  | some r =>
    if r.age ≤ hold then r.torque
    else if 0 < prev then max 0 (prev - decay)
    else if prev < 0 then min 0 (prev + decay)
    else 0

/-- The stale limit: ceil(DEMAND_TIMEOUT_MS × 1000 / T_sp) (R37). -/
def staleLimit (timeoutMs periodUs : Nat) : Nat := (timeoutMs * 1000 + periodUs - 1) / periodUs

/-! ### Shares (R67, R68, R80) -/

/-- Load map point i (R65 fields 21 to 29). -/
def Profile.loadMap (p : Profile) (i : Nat) : Nat :=
  [p.map0, p.map1, p.map2, p.map3, p.map4, p.map5, p.map6, p.map7, p.map8].getD i 0

/-- `a + trunc((b − a) × n / m)`: the point n/m of the way from a to b, truncated toward a (R67, R80). -/
def between (a b n m : Nat) : Nat := ((a : Int) + Int.tdiv (((b : Int) - a) * n) m).toNat

/-- The drive share from the load map at a known rear load (R67). -/
def loadMapShare (p : Profile) (load : Nat) : Nat :=
  if load ≤ 400 then p.loadMap 0
  else if 800 ≤ load then p.loadMap 8
  else
    let i := (load - 400) / 50
    between (p.loadMap i) (p.loadMap (i + 1)) (load - 400 - 50 * i) 50

/-- The target drive share of a profile (R67). -/
def targetDrive (p : Profile) (load : Nat) (known : Bool) : Nat := if known then loadMapShare p load else p.baseShare

/-! ### Effective caps (R59) -/

/-- The least of a bound and the limits of a list. -/
def leastLimit (bound : Nat) (limits : List Nat) : Nat := limits.foldl min bound

/-- The limits of every entry, internal or host, for an axle and a direction. -/
def CapTable.limits (t : CapTable) (x : Axle) (d : Direction) : List Nat :=
  ([InternalSource.inverter, .link, .slip, .track].filterMap fun src => (t.slots.get src x d).map CapSlot.limit)
    ++ (t.pool.filter fun e => decide (e.axle = x) && decide (e.dir = d)).map HostEntry.limit

/-- The effective cap for an axle and a direction (R59). -/
def CapTable.effective (t : CapTable) (profileLimit : Nat) (x : Axle) (d : Direction) : Nat :=
  leastLimit profileLimit (t.limits x d)

/-! ### The commands (R9 to R13) -/

/-- Stage 5 (R9): F0 = trunc(D × S / 1000) and R0 = D − F0. -/
def splitParts (demand : Int) (share : Nat) : ByAxle Int :=
  let f0 := Int.tdiv (demand * share) 1000
  ⟨f0, demand - f0⟩

/-- Stage 6 (R10): sign(x) × min(|x|, cap). -/
def clampTo (part : Int) (cap : Nat) : Int := Int.sign part * min (part.natAbs : Int) cap

def clampParts (parts : ByAxle Int) (caps : ByAxle Nat) : ByAxle Int :=
  ⟨clampTo parts.front caps.front, clampTo parts.rear caps.rear⟩

/-- Stage 7 (R11): the excess of one clamped axle moves to the other, up to that axle's headroom. -/
def transferParts (demand : Int) (parts clamped : ByAxle Int) (caps : ByAxle Nat) (transfer : Nat) : ByAxle Int :=
  let eF := parts.front - clamped.front
  let eR := parts.rear - clamped.rear
  let hF := (caps.front : Int) - clamped.front.natAbs
  let hR := (caps.rear : Int) - clamped.rear.natAbs
  if transfer = 1 then
    if eF ≠ 0 ∧ eR = 0 then ⟨clamped.front, clamped.rear + Int.sign demand * min (eF.natAbs : Int) hR⟩
    else if eF = 0 ∧ eR ≠ 0 then ⟨clamped.front + Int.sign demand * min (eR.natAbs : Int) hF, clamped.rear⟩
    else clamped
  else clamped

/-- Stage 8 (R12): a rise in magnitude is limited to `step`; a fall is taken at once. -/
def slewTo (target prev : Int) (step : Nat) : Int :=
  if target = 0 then 0
  else if prev = 0 ∨ Int.sign target ≠ Int.sign prev then Int.sign target * min (target.natAbs : Int) step
  else if prev.natAbs < target.natAbs then Int.sign target * min (target.natAbs : Int) (prev.natAbs + step)
  else target

def slewParts (targets : ByAxle Int) (prevFront prevRear : Int) (step : Nat) : ByAxle Int :=
  ⟨slewTo targets.front prevFront step, slewTo targets.rear prevRear step⟩

/-- Stage 9 (R13). -/
def shortfallOf (demand : Int) (outputs : ByAxle Int) : Int := demand - outputs.front - outputs.rear

/-- The direction whose caps a period uses: drive where D ≥ 0 (R8). -/
def demandDirection (demand : Int) : Direction := if demand < 0 then .regen else .drive

/-- The pair of caps for a direction (R8). -/
def capPair (caps : ByAxle (ByDir Nat)) (d : Direction) : ByAxle Nat := ⟨caps.front.get d, caps.rear.get d⟩

end Sys2Proof.Machine
end

