-- ==== Sys2Proof/Machine/Period.lean ====
section
/-! DEFINITION. PERIOD_EXPIRY: the period operation, stage by stage (R3 to R26, R34 to R39, R79, R80, R86, R132, R166). -/

namespace Sys2Proof.Machine

/-- The place of a stage in the order of R4. -/
def stageNumber : Stage → Nat
  | .demand => 1
  | .outputState => 2
  | .share => 3
  | .caps => 4
  | .split => 5
  | .clamp => 6
  | .transfer => 7
  | .slew => 8
  | .shortfall => 9
  | .issue => 10
  | .monitor => 11
  | .report => 12

/-- The twelve stages in order (R4). -/
def allStages : List Stage :=
  [.demand, .outputState, .share, .caps, .split, .clamp, .transfer, .slew, .shortfall, .issue, .monitor, .report]

/-- The record of an operation that has done no stage. -/
def PeriodWork.start : PeriodWork where
  done := 0
  staleTripAt := none
  held := 0
  accepted := 0
  periodOc := .disarmed
  demand := 0
  driveShare := 0
  regenShare := 0
  share := 0
  activeSlot := 0
  blendRemaining := 0
  transfer := 0
  slewStep := 0
  shortfallThreshold := 0
  shortfallCount := 0
  limits := ⟨⟨0, 0⟩, ⟨0, 0⟩⟩
  caps := ⟨⟨0, 0⟩, ⟨0, 0⟩⟩
  parts := ⟨0, 0⟩
  clamped := ⟨0, 0⟩
  targets := ⟨0, 0⟩
  outputs := ⟨0, 0⟩
  shortfall := 0

/-- A stage takes the operation's record and the state, and gives both. -/
abbrev Staged := PeriodWork × State

/-! ### Stage 1 -/

/-- DI's records after the demand take (R34). -/
def DemandIntake.takeRecords (d : DemandIntake) : DemandIntake :=
  match d.pending with
  | some r =>
    { d with pending := none, current := some ⟨r.number, r.torque, 0⟩, staleSignalled := false }
  | none => { d with current := d.current.map fun r => { r with age := satInc 65535 r.age } }

/-- DI's demand take: its records, and the held demand, which becomes the previous one (R34, R35, R36). -/
def demandTake (s : State) : State :=
  let d := s.di.takeRecords
  let p := activeProfile s
  s.setDi { d with prevHeld := heldDemand d.current p.demandHold p.decayStep d.prevHeld }

/-- The four conditions of R38 for DEMAND_STALE, after the demand take. -/
def staleNow (s : State) : Bool :=
  match s.di.current with
  | none => false
  | some r =>
    decide (staleLimit s.hp.params.demandTimeoutMs s.hp.params.splitPeriodUs ≤ r.age)
      && decide (s.oc.state = .armed) && !s.di.staleSignalled

/-- The stage before which OC takes the trip of a DEMAND_STALE signalled now: 2 to 13 (R39, log 5). -/
def staleTripStage (s : State) : Nat := 2 + Config.staleTripStage s.freeIndex % 12

/-- DI signals DEMAND_STALE and sets its mark (R38). FU latches and counts it, sets ATTN and considers a notice; its
forcing notice reaches OC when the free value says (R39). -/
def signalStale (s : State) : State :=
  actOutward .demandStale (faultRecord .demandStale s)
    (takeAtRecord .demandStale .event (drawFree (s.setDi { s.di with staleSignalled := true })))

/-- Stage 1. A Slip Monitor takes a direction change here, and the Cap Table takes its withdrawal before the stage 4 take of
the period; the other order is `runLate` (R94; which of the two a command takes is its operand, DESIGN CHOICE, log 31). -/
def stageDemand (w : PeriodWork) (s : State) : Staged :=
  let s1 := demandTake s
  let h := s1.di.prevHeld
  let number := (s1.di.current.map CurrentDemand.number).getD 0
  let stale := staleNow s1
  let s2 := if stale then signalStale s1 else s1
  let s3 := smDirection .rear (Int.sign h) (smDirection .front (Int.sign h) s2)
  ({ w with done := 1, held := h, accepted := number,
            staleTripAt := if stale then some (staleTripStage s1) else none }, s3)

/-! ### Stage 2 -/

/-- OC takes the demand notice (R132). -/
def demandNotice (number : Nat) (s : State) : State :=
  if s.oc.state = .arming ∧ laterThan number s.oc.armMark = true then
    s.setOc { s.oc with state := .armed, armWindow := none, lastOutcome := .armed, enF := true, enR := true }
  else s

def stageOutputState (w : PeriodWork) (s : State) : Staged :=
  let s1 := demandNotice w.accepted s
  ({ w with done := 2, periodOc := s1.oc.state,
            demand := if s1.oc.state = .armed then w.held else 0 }, s1)

/-! ### Stage 3 -/

/-- The blend periods remaining (R63). -/
def ProfileTable.remaining (t : ProfileTable) : Nat := if t.blendRunning then t.blendLength - t.blendStep else 0

/-- PT's period take: the shares, one step of a running blend, the last-used shares (R79, R80). -/
def ProfileTable.periodTake (t : ProfileTable) (drive regen : Nat) : ProfileTable :=
  if t.blendRunning then
    let k := t.blendStep + 1
    { t with
      blendStep := k
      blendRunning := decide (k < t.blendLength)
      lastDrive := between t.startDrive drive k t.blendLength
      lastRegen := between t.startRegen regen k t.blendLength }
  else { t with lastDrive := drive, lastRegen := regen }

def stageShare (w : PeriodWork) (s : State) : Staged :=
  let p := activeProfile s
  let t := s.pt.periodTake (targetDrive p s.di.rearLoad s.di.rearLoadKnown) p.regenShare
  ({ w with
      done := 3
      driveShare := t.lastDrive
      regenShare := t.lastRegen
      share := if w.demand < 0 then t.lastRegen else t.lastDrive
      activeSlot := t.active.val
      blendRemaining := t.remaining
      transfer := p.transfer
      slewStep := p.slewStep
      shortfallThreshold := p.shortfallThreshold
      shortfallCount := p.shortfallCount
      limits := ⟨⟨p.driveLimitFront, p.regenLimitFront⟩, ⟨p.driveLimitRear, p.regenLimitRear⟩⟩ },
    s.setPt t)

/-! ### Stages 4 to 9 -/

/-- The caps the period uses, for the direction of its effective demand (R8). -/
def PeriodWork.usedCaps (w : PeriodWork) : ByAxle Nat := capPair w.caps (demandDirection w.demand)

/-- The four effective caps of a period, from the Cap Table as its take finds it (R59, R60). -/
def PeriodWork.capsOf (w : PeriodWork) (t : CapTable) : ByAxle (ByDir Nat) :=
  ⟨⟨t.effective w.limits.front.drive .front .drive, t.effective w.limits.front.regen .front .regen⟩,
   ⟨t.effective w.limits.rear.drive .rear .drive, t.effective w.limits.rear.regen .rear .regen⟩⟩

def stageCaps (w : PeriodWork) (s : State) : Staged := ({ w with done := 4, caps := w.capsOf s.ct }, s)

def stageSplit (w : PeriodWork) (s : State) : Staged :=
  ({ w with done := 5, parts := splitParts w.demand w.share }, s)

def stageClamp (w : PeriodWork) (s : State) : Staged :=
  ({ w with done := 6, clamped := clampParts w.parts w.usedCaps }, s)

def stageTransfer (w : PeriodWork) (s : State) : Staged :=
  ({ w with done := 7, targets := transferParts w.demand w.parts w.clamped w.usedCaps w.transfer }, s)

/-- Stage 8: each command rises from the previous one by at most the slew step (R12). Where a DISARM, an ARM and a fresh DEMAND
are all taken between two period takes, no period has read ARMING: the previous commands are then still those of the last period,
as R16 says of them, and not the 0 that R132 speaks of (DESIGN CHOICE, log 38). -/
def stageSlew (w : PeriodWork) (s : State) : Staged :=
  ({ w with done := 8, outputs := slewParts w.targets s.se.prevFront s.se.prevRear w.slewStep }, s)

def stageShortfall (w : PeriodWork) (s : State) : Staged :=
  ({ w with done := 9, shortfall := shortfallOf w.demand w.outputs }, s)

/-! ### Stage 10 -/

/-- What SE issues to an axle's link (R15). -/
def PeriodWork.issue (w : PeriodWork) (x : Axle) (period : Nat) : Issue where
  torque := w.outputs.get x
  enable := decide (w.periodOc = .armed)
  period := period
  driveLimit := (w.caps.get x).drive
  regenLimit := (w.caps.get x).regen

/-- Stage 10: the issue to AL-F, then the issue to AL-R. No command falls between the two, so no DISARM and no trip does (R15
leaves it open; DESIGN CHOICE, log 30). -/
def stageIssue (w : PeriodWork) (s : State) : Staged :=
  let s1 := takeIssue .front (w.issue .front s.se.periodNumber) s
  let s2 := takeIssue .rear (w.issue .rear s.se.periodNumber) s1
  ({ w with done := 10 },
    s2.setSe { s2.se with prevFront := w.outputs.front, prevRear := w.outputs.rear })

/-! ### Stage 11 -/

/-- The run count and the SHORTFALL condition (R18, R19). -/
def stageMonitor (w : PeriodWork) (s : State) : Staged :=
  let run := if w.shortfallThreshold < w.shortfall.natAbs then satInc 65535 s.se.shortfallRun else 0
  let live := decide (w.shortfallCount ≤ run)
  let s1 := s.setSe { s.se with shortfallRun := run, shortfallLive := live }
  ({ w with done := 11 },
    if live = s.se.shortfallLive then s1 else signalReporting .shortfall (.live live) s1)

/-! ### Stage 12 -/

/-- The payload of a SPLIT REPORT (R21, R172). -/
def reportPayload (w : PeriodWork) (s : State) : List Byte :=
  u32 s.se.periodNumber ++ i16 w.demand ++ u16 w.share ++ u16 w.usedCaps.front ++ u16 w.usedCaps.rear
    ++ i16 w.outputs.front ++ i16 w.outputs.rear ++ i16 w.shortfall
    ++ u8 w.periodOc.code ++ u8 s.sm.front.state.code ++ u8 s.sm.rear.state.code
    ++ u8 s.link.front.state.code ++ u8 s.link.rear.state.code ++ u8 w.activeSlot ++ u8 w.blendRemaining

/-- The report count and the SPLIT REPORT offer (R20, R22). -/
def reportStep (w : PeriodWork) (s : State) : State :=
  let n := s.hp.params.reportInterval
  if n = 0 then s.setSe { s.se with reportCount := 0 }
  else if n ≤ s.se.reportCount + 1 then offerReport (reportPayload w s) (s.setSe { s.se with reportCount := 0 })
  else s.setSe { s.se with reportCount := s.se.reportCount + 1 }

/-- The reply to a SYNC: its KIND plus 0x80 (R160), the result code and a period number (R166, R171). -/
def syncReply (tag : Byte) (result : ResultCode) (period : Nat) : HostFrame where
  kind := 0x86#8
  tag := tag
  payload := u8 result.code ++ u32 period

/-- HP compares a period completion with the pending SYNC (R166). -/
def completePeriod (s : State) : State :=
  match s.hp.pendingSync with
  | none => s
  | some y =>
    if y.awaited = s.se.periodNumber then
      enqueueFrame (syncReply y.tag .ok s.se.periodNumber) (s.setHp { s.hp with pendingSync := none })
    else s

def stageReport (w : PeriodWork) (s : State) : Staged :=
  ({ w with done := 12 }, completePeriod (reportStep w s))

/-! ### The operation -/

def runStage (t : Stage) (w : PeriodWork) (s : State) : Staged :=
  match t with
  | .demand => stageDemand w s
  | .outputState => stageOutputState w s
  | .share => stageShare w s
  | .caps => stageCaps w s
  | .split => stageSplit w s
  | .clamp => stageClamp w s
  | .transfer => stageTransfer w s
  | .slew => stageSlew w s
  | .shortfall => stageShortfall w s
  | .issue => stageIssue w s
  | .monitor => stageMonitor w s
  | .report => stageReport w s

/-- OC takes the trip of this period's DEMAND_STALE where it is due before stage `n` (R39). -/
def takeStaleTrip (n : Nat) (w : PeriodWork) (s : State) : Staged :=
  if w.staleTripAt = some n then ({ w with staleTripAt := none }, trip (.fault .demandStale) s) else (w, s)

/-- The stages of a list, one after the other. -/
def runStages : List Stage → PeriodWork → State → Staged
  | [], w, s => (w, s)
  | t :: rest, w, s =>
    let a := takeStaleTrip (stageNumber t) w s
    let b := runStage t a.1 a.2
    runStages rest b.1 b.2

/-- The stages an operation that has done `done` of them still runs up to and including `last`. -/
def stagesUpTo (done last : Nat) : List Stage :=
  allStages.filter fun t => decide (done < stageNumber t) && decide (stageNumber t ≤ last)

/-- The SLIP slots of an axle as a take finds them that the Cap Table takes before the withdrawals of a direction change: an
entry that was there `before` the change and is gone `after` it still stands (R94). -/
def seenSlip (before after now : ByDir (Option CapSlot)) : ByDir (Option CapSlot) :=
  ⟨if after.drive.isNone then now.drive.or before.drive else now.drive,
   if after.regen.isNone then now.regen.or before.regen else now.regen⟩

/-- An axle's withdrawal reaches the Cap Table after the stage 4 take (R94). -/
def withdrawsLate (o : SlipOrder) (x : Axle) : Bool :=
  match o, x with
  | .beforeTake, _ | .frontAfterTake, .rear | .rearAfterTake, .front => false
  | .afterTake, _ | .frontAfterTake, .front | .rearAfterTake, .rear => true

/-- The Cap Table as such a take finds it, axle by axle. -/
def seenTable (o : SlipOrder) (before after now : CapTable) : CapTable :=
  let seen (x : Axle) :=
    if withdrawsLate o x then seenSlip (before.slots.slip.get x) (after.slots.slip.get x) (now.slots.slip.get x)
    else now.slots.slip.get x
  { now with slots := { now.slots with slip := ⟨seen .front, seen .rear⟩ } }

/-- The stages, where the Cap Table takes the stage 4 take before withdrawals that the direction change of stage 1 brings:
the take finds those SLIP entries of the old direction still present, and they are absent afterwards (R94). Which axles'
withdrawals these are is the command's operand (DESIGN CHOICE, log 31). -/
def runLate (slip : SlipOrder) (last : Nat) (w : PeriodWork) (s : State) : Staged :=
  let r1 := runStages (stagesUpTo 0 1) w s
  let r3 := runStages (stagesUpTo 1 3) r1.1 r1.2
  let a := takeStaleTrip 4 r3.1 r3.2
  let w4 := { a.1 with done := 4, caps := a.1.capsOf (seenTable slip s.ct r1.2.ct a.2.ct) }
  runStages (stagesUpTo 4 last) w4 a.2

/-- The stages an operation that has done `w.done` of them runs up to and including `last`. The order of R94 is open where
stage 1 and stage 4 are both among them (log 31). -/
def runUpTo (slip : SlipOrder) (last : Nat) (w : PeriodWork) (s : State) : Staged :=
  if slip ≠ .beforeTake ∧ w.done = 0 ∧ 4 ≤ last then runLate slip last w s
  else runStages (stagesUpTo w.done last) w s

/-- The operation goes on up to and including a stage. After stage 12 it ends (R4). -/
def runOperation (w : PeriodWork) (through : Stage) (s : State) (slip : SlipOrder := .beforeTake) : State :=
  let r := runUpTo slip (stageNumber through) w s
  if through = .report then
    let e := takeStaleTrip 13 r.1 r.2
    e.2.setSe { e.2.se with work := none }
  else r.2.setSe { r.2.se with work := some r.1 }

/-- The period timer expires: the period number increases by one, and from 4294967295 it becomes 0 (R3). -/
def beginPeriod (s : State) : State :=
  s.setSe { s.se with periodNumber := (s.se.periodNumber + 1) % 4294967296, timerUs := 0 }

/-- The period timer advances: it runs (READY), and REFCLK is present (R2, R25). -/
def periodTimerRuns (s : State) : Bool := s.se.timerRunning && s.tb.refclk

/-- PERIOD_EXPIRY (R4). An operation in progress goes on; otherwise an expiry begins one, where the timer runs (R2, log 28).
While REFCLK is absent SE performs no operation, and no period completes (R25, R166). -/
def periodExpiry (through : Stage) (s : State) (slip : SlipOrder := .beforeTake) : State :=
  if s.tb.refclk then
    match s.se.work with
    | some w => runOperation w through s slip
    | none => if periodTimerRuns s then runOperation PeriodWork.start through (beginPeriod s) slip else s
  else s

/-- An operation in progress as REFCLK stops is completed (R25). R25 does not say when; no period completes while REFCLK is
absent (R166), so the model completes it as REFCLK stops, before REFCLK is absent, and no command falls in between (DESIGN CHOICE,
log 40). -/
def finishPeriod (s : State) : State :=
  match s.se.work with
  | some w => runOperation w .report s
  | none => s

def execPeriodExpiry (through : Stage) (s : State) (slip : SlipOrder := .beforeTake) : Answer :=
  inOperation (fun s => periodExpiry through s slip) s

end Sys2Proof.Machine
end

