-- ==== Sys2Proof/Machine/Between.lean ====
section
/-! DEFINITION. What another block's claim does when it is taken between two claims of one command (R44, R56, R60, R84, R99,
R131; log 31). -/

namespace Sys2Proof.Machine

/-- How far a period operation can get at such a moment. A link takes a frame whole, so the issue of stage 10 does not reach
it between the INVERTER posts. -/
def gapLimit (gap : ClaimGap) (through : Stage) : Stage :=
  if gap = .inverter ∧ stageNumber .shortfall < stageNumber through then .shortfall else through

/-- What is taken at a moment between two claims. -/
def runMeanwhile (gap : ClaimGap) (m : Meanwhile) (s : State) : State :=
  match m with
  | .period through slip => periodExpiry (gapLimit gap through) s slip
  | .arm => takeRequest .arm ownerArm s
  | .capWithdrawSource => takeRequest .capWithdrawSource ownerCapWithdrawSource s
  | .capList => takeRequest .capList ownerCapList s

/-- Everything a command's operand puts at each moment, in the operand's order. -/
def gaps (inGaps : List (ClaimGap × Meanwhile)) : Gaps := fun gap s =>
  inGaps.foldl (fun s e => if e.1 = gap then runMeanwhile gap e.2 s else s) s

end Sys2Proof.Machine
end

