-- ==== Sys2Proof/Machine/Clock.lean ====
section
/-! DEFINITION. The reference clock: CLOCK_CHECK_WINDOW_END, REFCLK_STOPS, REFCLK_RETURNS (R25, R101, R151, R152, R154). -/

namespace Sys2Proof.Machine

/-- The count of a window lies inside the band (R151). -/
def insideBand (edges : Nat) : Bool := decide (19600 ≤ edges) && decide (edges ≤ 20400)

/-- The Timebase sets TIMEBASE and signals it (R151). -/
def setTimebase (live : Bool) (s : State) (g : Gaps := noGaps) : State :=
  signal .timebase (.live live) (s.setTb { s.tb with timebaseLive := live }) g

/-- A window ends with this count (R151). -/
def judgeWindow (edges : Nat) (s : State) (g : Gaps := noGaps) : State :=
  if insideBand edges then
    let run := satInc 3 s.tb.insideRun
    let s1 := s.setTb { s.tb with insideRun := run, outsideRun := 0 }
    if run = 3 ∧ s.tb.timebaseLive = true then setTimebase false s1 g else s1
  else
    let run := satInc 3 s.tb.outsideRun
    let s1 := s.setTb { s.tb with outsideRun := run, insideRun := 0 }
    if run = 3 ∧ s.tb.timebaseLive = false then setTimebase true s1 g else s1

/-- CLOCK_CHECK_WINDOW_END (R151). -/
def execClockCheckWindowEnd (edges : Nat) (s : State)
    (inGaps : List (ClaimGap × Meanwhile) := []) : Answer :=
  inOperation (fun s => judgeWindow edges s (gaps inGaps)) s

/-- What a software reset left on a line, with the bits of it sent when REFCLK stops (R101, R111; log 12). -/
def LineTail.hold (t : LineTail) (txBits : Nat) : LineTail :=
  match t with
  | .frame f _ => .frame f txBits
  | .brk => .brk
  | .none => .none

/-- The measures of a link as they stand when REFCLK stops: each where it is being taken (R101, log 12). -/
def AxleLink.hold (l : AxleLink) (m : LineMeasures) : AxleLink :=
  { l with
    txBits := if l.inFlight.isSome then m.txBits else l.txBits
    tail := l.tail.hold m.txBits
    rxGapUs := if l.partialBytes.isEmpty then l.rxGapUs else m.rxGapUs
    lowLineUs := if l.state = .off ∨ l.state = .broken then l.lowLineUs else m.lowLineUs }

/-- REFCLK is absent from now on (R25): the measures below a millisecond hold as they stand. -/
def holdMeasures (m : Measures) (s : State) : State :=
  let s1 := s.setTb { s.tb with refclk := false }
  let s2 := s1.setSe { s1.se with timerUs := if s1.se.timerRunning then m.periodUs else s1.se.timerUs }
  let s3 := s2.setHp
    { s2.hp with
      sendBits := if s2.hp.sending.isSome then m.hostTxBits else s2.hp.sendBits
      gapUs := if s2.hp.framer.isSome then m.hostGapUs else s2.hp.gapUs }
  let s4 := s3.setLink .front (s3.link.front.hold m.front)
  s4.setLink .rear (s4.link.rear.hold m.rear)

/-- REFCLK stops (R25): a period operation in progress is completed, and what REFCLK times then holds (log 40). -/
def clockStops (m : Measures) (s : State) : State :=
  if s.tb.refclk then holdMeasures m (finishPeriod s) else s

/-- REFCLK_STOPS (R25). REFCLK is an input: it stops whether or not the part is held in reset. -/
def execRefclkStops (m : Measures) (s : State) : Answer := .next (clockStops m s)

/-- REFCLK returns: what was held goes on from where it stood, and a frame waiting for HTX starts (R25, R154). -/
def clockReturns (s : State) : State := startHostFrame (s.setTb { s.tb with refclk := true })

/-- REFCLK_RETURNS (R25). -/
def execRefclkReturns (s : State) : Answer := .next (clockReturns s)

end Sys2Proof.Machine
end

