-- ==== Sys2Proof/Machine/Demand.lean ====
section
/-! DEFINITION. The DEMAND request (R28 to R32). -/

namespace Sys2Proof.Machine

/-- The five fields of a DEMAND (R29). -/
structure DemandFields where
  seq : Byte
  torque : Int
  speedPresent : Bool
  loadPresent : Bool
  speed : Int
  load : Nat
  deriving DecidableEq, Repr

/-- The fields of a DEMAND payload (R172). -/
def readDemand (p : List Byte) : DemandFields where
  seq := byteAt p 0
  torque := i16At p 1
  speedPresent := (u8At p 3).testBit 0
  loadPresent := (u8At p 3).testBit 1
  speed := i16At p 4
  load := u16At p 6

/-- Checks 2 and 3 of R30, in order; none where the DEMAND is accepted. -/
def demandRefusal (q : DemandFields) (d : DemandIntake) : Option ResultCode :=
  if q.torque < -16000 ∨ 16000 < q.torque ∨ (q.loadPresent = true ∧ 1000 < q.load) then some .range
  else if d.lastSeq = some q.seq then some .duplicate
  else none

/-- DI accepts a DEMAND (R31, R32). -/
def DemandIntake.accept (d : DemandIntake) (q : DemandFields) : DemandIntake :=
  let n := nextAccepted d.acceptedCount
  { d with
    acceptedCount := n
    pending := some ⟨n, q.torque⟩
    overwrites := if d.pending.isSome then satInc 65535 d.overwrites else d.overwrites
    lastSeq := some q.seq
    refSpeed := if q.speedPresent then q.speed else d.refSpeed
    refSpeedKnown := q.speedPresent || d.refSpeedKnown
    rearLoad := if q.loadPresent then q.load else d.rearLoad
    rearLoadKnown := q.loadPresent || d.rearLoadKnown }

/-- DEMAND at its owner (R30, R31). -/
def ownerDemand (f : HostFrame) (s : State) : State :=
  let q := readDemand f.payload
  match demandRefusal q s.di with
  | some .duplicate =>
    reply f .duplicate (u16 s.di.acceptedCount) (s.setDi { s.di with duplicates := satInc 65535 s.di.duplicates })
  | some r => reply f r (u16 s.di.acceptedCount) s
  | none =>
    let d := s.di.accept q
    reply f .ok (u16 d.acceptedCount) (s.setDi d)

def execDemand (s : State) : Answer := inOperation (takeRequest .demand ownerDemand) s

end Sys2Proof.Machine
end

