-- ==== Sys2Proof/Machine/HostRequests.lean ====
section
/-! DEFINITION. The requests HP owns: SETUP, RESET, PARAM SET, PARAM GET, SYNC, and a request of unknown kind
(R158, R162 to R167). STATUS stands in Machine/Status.lean. -/

namespace Sys2Proof.Machine

/-! ### SETUP and READY entry (R162, R163) -/

/-- A link takes READY entry: its values, then STARTING with its LINK entries (R104, R118). -/
def linkReadyEntry (x : Axle) (s : State) : State :=
  moveLink x .starting (s.setLink x { AxleLink.reset with timer := some s.hp.params.linkTimeoutMs })

/-- PT at READY entry: last-used shares from slot 0, no blend (R63). -/
def ProfileTable.readyEntry (t : ProfileTable) : ProfileTable :=
  { t with blendRunning := false, startDrive := 0, startRegen := 0, blendStep := 0, blendLength := 0,
           lastDrive := slot0Profile.baseShare, lastRegen := slot0Profile.regenShare }

/-- SE, DI, CT, PT, SM, TM, the out record and OC at READY entry (R1, R27, R61, R63, R85, R98, R120, R127). -/
def blocksReadyEntry (s : State) : State :=
  { s with
    se := { SplitEngine.reset with timerRunning := true }
    di := DemandIntake.reset
    ct := CapTable.reset
    pt := s.pt.readyEntry
    sm := ⟨SlipMonitor.reset, SlipMonitor.reset⟩
    tm := ⟨TrackingMonitor.reset, TrackingMonitor.reset⟩
    out := OutRecord.reset
    oc := OutputControl.reset }

/-- OC's check at READY entry: it trips where a FORCING condition is present (R127, R136). -/
def readyCheck (s : State) : State :=
  match lowestForcing s with
  | some c => trip (.fault c) s
  | none => s

/-- READY entry (R163): the Cap Table is emptied before the links post, and both links take it before OC's check. -/
def readyEntry (s : State) : State :=
  evaluateHostLink (updateAttn (readyCheck (linkReadyEntry .rear (linkReadyEntry .front (blocksReadyEntry s)))))

/-- SETUP at its owner, in STANDBY (R162). -/
def ownerSetup (f : HostFrame) (s : State) : State :=
  let p := readSetup f.payload
  match p.firstBad with
  | some n => reply f .range (u8 n) s
  | none => reply f .ok (u8 0) (readyEntry (s.setHp { s.hp with params := p, part := .ready }))

def execSetup (s : State) : Answer := inOperation (takeRequest .setup ownerSetup) s

/-! ### RESET (R167) -/

/-- A RESET answers a pending SYNC ABORTED (R167 step 1). -/
def abortSync (s : State) : State :=
  match s.hp.pendingSync with
  | none => s
  | some y => enqueueFrame (syncReply y.tag .aborted 0) (s.setHp { s.hp with pendingSync := none })

/-- RESET at its owner (R167 steps 1 to 3). -/
def ownerReset (f : HostFrame) (s : State) : State :=
  let s1 := reply f .ok [] (abortSync s)
  s1.setHp { s1.hp with resetTaken := true }

def execReset (s : State) : Answer := inOperation (takeRequest .reset ownerReset) s

/-! ### PARAM SET and PARAM GET (R164, R165) -/

/-- The four checks of PARAM SET, in order (R164): none where the request is taken. -/
def paramSetRefusal (p : Params) (number value : Nat) : Option ResultCode :=
  if p.value number = none then some .paramUnknown
  else if number = 0x10 ∨ number = 0x11 then some .readOnly
  else if number = 0x01 ∨ number = 0x02 ∨ number = 0x08 then some .state
  else if paramInRange number value = false then some .range
  else none

/-- The fields of a PARAM SET or PARAM GET reply: the number, and the value as it stands. -/
def paramFields (p : Params) (number : Nat) : List Byte := u8 number ++ u16 ((p.value number).getD 0)

/-- A parameter takes a value (R164). A PARAM SET of HOST_ERROR_LIMIT is itself an evaluation of HOST_LINK (R156). -/
def writeParam (number value : Nat) (s : State) : State :=
  let s1 := s.setHp { s.hp with params := s.hp.params.write number value }
  if number = 0x05 then evaluateHostLink s1 else s1

/-- PARAM SET at its owner (R164). 11.3 gives the request no layout: the number is read at offset 0 and the value, uint16, at
offset 1 (DEDUCED, log 32). -/
def ownerParamSet (f : HostFrame) (s : State) : State :=
  let number := u8At f.payload 0
  let value := u16At f.payload 1
  match paramSetRefusal s.hp.params number value with
  | some r => reply f r (paramFields s.hp.params number) s
  | none =>
    let s1 := writeParam number value s
    reply f .ok (paramFields s1.hp.params number) s1

def execParamSet (s : State) : Answer := inOperation (takeRequest .paramSet ownerParamSet) s

/-- PARAM GET at its owner (R165). -/
def ownerParamGet (f : HostFrame) (s : State) : State :=
  let number := u8At f.payload 0
  reply f (if (s.hp.params.value number).isSome then .ok else .paramUnknown) (paramFields s.hp.params number) s

def execParamGet (s : State) : Answer := inOperation (takeRequest .paramGet ownerParamGet) s

/-! ### SYNC (R166) -/

/-- SYNC at its owner (R166): it becomes pending, or it is refused BUSY. -/
def ownerSync (f : HostFrame) (s : State) : State :=
  match s.hp.pendingSync with
  | some _ => reply f .busy (u32 0) s
  | none => s.setHp { s.hp with pendingSync := some ⟨f.tag, (s.se.periodNumber + 1) % 4294967296⟩ }

def execSync (s : State) : Answer := inOperation (takeRequest .sync ownerSync) s

/-! ### A request of unknown kind (R158 check 1) -/

/-- HP takes the request at the head of the queue where its KIND is no request kind, and refuses it KIND_UNKNOWN. -/
def takeUnknown (s : State) : State :=
  match s.hp.requestQueue with
  | [] => s
  | f :: _ => if canTake s && !kindKnown f.kind then reply f .kindUnknown [] (popRequest s) else s

def execKindUnknown (s : State) : Answer := inOperation takeUnknown s

end Sys2Proof.Machine
end

