-- ==== Sys2Proof/Machine/FaultRequests.lean ====
section
/-! DEFINITION. The FAULT requests: FAULT READ, FAULT MASK, FAULT TEST (R147 to R150). -/

namespace Sys2Proof.Machine

/-- The two bytes of a record in a FAULT READ reply (R172). -/
def recordFields (r : FaultRecord) : List Byte :=
  u8 (flag r.live + 2 * flag r.test + 4 * flag r.latched + 8 * flag r.masked) ++ u8 r.count

/-- A record after a FAULT READ (R147 steps 2 and 3). -/
def FaultRecord.afterRead (r : FaultRecord) (zeroCounts : Bool) : FaultRecord :=
  { r with latched := r.latched && r.present, count := if zeroCounts then 0 else r.count }

/-- The same change at every record, in order of fault code. -/
def FaultRecords.mapAll (r : FaultRecords) (g : FaultCode → FaultRecord → FaultRecord) : FaultRecords :=
  faultCodes.foldl (fun acc c => acc.set c (g c (acc.get c))) r

/-- FAULT READ at its owner (R147). -/
def ownerFaultRead (f : HostFrame) (s : State) : State :=
  let zeroCounts := (u8At f.payload 0).testBit 0
  let fields := faultCodes.flatMap fun c => recordFields (faultRecord c s)
  reply f .ok fields
    (updateAttn (s.setFu { s.fu with records := s.fu.records.mapAll fun _ r => r.afterRead zeroCounts }))

def execFaultRead (s : State) : Answer := inOperation (takeRequest .faultRead ownerFaultRead) s

/-- The bit of a fault in a set (R149). -/
def setBit (set : Nat) (c : FaultCode) : Bool := set.testBit (c.code - 1)

/-- FAULT MASK at its owner (R149). -/
def ownerFaultMask (f : HostFrame) (s : State) : State :=
  let set := u16At f.payload 0
  if set.testBit 15 then reply f .range (u16 0) s
  else
    reply f .ok (u16 set)
      (updateAttn (s.setFu
        { s.fu with records := s.fu.records.mapAll fun c r => { r with masked := setBit set c } }))

def execFaultMask (s : State) : Answer := inOperation (takeRequest .faultMask ownerFaultMask) s

/-- FU takes a fault whose test field changes, as a take of its own (R150). -/
def testFault (set : Nat) (s : State) (c : FaultCode) : State :=
  if (faultRecord c s).test = setBit set c then s else signal c (.test (setBit set c)) s

/-- FAULT TEST at its owner (R150). -/
def ownerFaultTest (f : HostFrame) (s : State) : State :=
  let set := u16At f.payload 0
  if s.oc.state ≠ .disarmed then reply f .state (u16 0) s
  else if set.testBit 15 then reply f .range (u16 0) s
  else
    let s1 := faultCodes.foldl (testFault set) s
    reply f .ok (u16 (faultSet FaultRecord.test s1.fu.records)) s1

def execFaultTest (s : State) : Answer := inOperation (takeRequest .faultTest ownerFaultTest) s

end Sys2Proof.Machine
end

