-- ==== Sys2Proof/Machine/LinkLines.lean ====
section
/-! DEFINITION. The events of the axle lines: the completion of a frame, BREAK_END, STATUS_FRAME_ACCEPTED, STATUS_FRAME_BAD,
RECEIVE_GAP_CUT, LINE_LOW_90US, RECEIVE_LINE_HIGH (R108, R110 to R116). COMMAND_FRAME_COMPLETE stands in Machine/FrameEnd.lean. -/

namespace Sys2Proof.Machine

/-- A frame left on the line by a software reset completes, changing nothing else (R111). -/
def tailFrameEnds (l : AxleLink) : AxleLink :=
  match l.tail with
  | .frame _ _ => { l with tail := .none }
  | .brk | .none => l

/-- The frame in flight has been sent whole, and the line is free (R108). -/
def freeLine (x : Axle) (s : State) : State := s.setLink x { s.link.get x with inFlight := none, txBits := 0 }

/-- The frame in flight completes: the line is free and a waiting frame starts at once (R108). The 40 µs count only while
REFCLK runs (R101). -/
def frameCompletes (x : Axle) (s : State) : State :=
  if s.tb.refclk then
    let l := s.link.get x
    match l.inFlight with
    | some _ => startWaiting x (freeLine x s)
    | none => s.setLink x (tailFrameEnds l)
  else s

/-- A break left on the line by a software reset ends (R111). -/
def tailBreakEnds (l : AxleLink) : AxleLink :=
  match l.tail with
  | .brk => { l with tail := .none }
  | .frame _ _ | .none => l

/-- The torque-off break ends: the line is released and a waiting frame starts (R110). The break is timed from the monitor
oscillator, so it ends with REFCLK absent as well. -/
def breakEnds (x : Axle) (s : State) : State :=
  let l := s.link.get x
  if l.breakSending then startWaiting x (s.setLink x { l with breakSending := false })
  else s.setLink x (tailBreakEnds l)

/-- BREAK_END (R110). -/
def execBreakEnd (x : Axle) (s : State) : Answer := inOperation (breakEnds x) s

/-- STATUS_FRAME_ACCEPTED (R112 to R114): the receiver takes the bytes and judges what they complete. -/
def execStatusFrameAccepted (x : Axle) (bytes : List Byte) (s : State)
    (inGaps : List (ClaimGap × Meanwhile) := []) : Answer :=
  inOperation (fun s => receiveBytes x bytes s (gaps inGaps)) s

/-- Bytes and, it may be, a framing error (R112, R113). -/
def receiveBad (x : Axle) (bytes : List Byte) (framingError : Bool) (s : State) : State :=
  let s1 := receiveBytes x bytes s
  if framingError && s.tb.refclk then framingErrorAt x s1 else s1

/-- STATUS_FRAME_BAD (R112, R113). -/
def execStatusFrameBad (x : Axle) (bytes : List Byte) (framingError : Bool) (s : State) : Answer :=
  inOperation (receiveBad x bytes framingError) s

/-- RECEIVE_GAP_CUT (R112, R113). While REFCLK is absent the gap measure holds (R101). -/
def execReceiveGapCut (x : Axle) (s : State) : Answer :=
  inOperation (fun s => if s.tb.refclk then gapCutAt x s else s) s

/-- The link enters BROKEN (R116). The LINK entries, the fault signals and the claims are `moveLink`'s. -/
def enterBroken (x : Axle) (s : State) (g : Gaps := noGaps) : State :=
  let l := s.link.get x
  moveLink x .broken (s.setLink x
    { l with timer := none, recovery := 0, badRun := 0,
             counters := { l.counters with breaks := satInc 65535 l.counters.breaks } }) g

/-- A frame being received when the line went low was cut at the first framing error and has been judged bad (R116). Where
no such event has come, it comes now (log 18). -/
def cutBeforeLow (x : Axle) (s : State) : State :=
  if (s.link.get x).partialBytes = [] then s else framingErrorAt x s

/-- The receive line has been low for 90 µs (R116). In OFF it counts for nothing; in BROKEN the link stays there; while
REFCLK is absent the low-line time holds (R101). -/
def lineLow (x : Axle) (s : State) (g : Gaps := noGaps) : State :=
  if s.tb.refclk then
    match (s.link.get x).state with
    | .off | .broken => s
    | .starting | .synced | .hunt | .lost =>
      let s1 := cutBeforeLow x s
      enterBroken x (s1.setLink x { s1.link.get x with lowLineUs := 90, partialBytes := [] }) g
  else s

/-- LINE_LOW_90US (R116). -/
def execLineLow90us (x : Axle) (s : State)
    (inGaps : List (ClaimGap × Meanwhile) := []) : Answer :=
  inOperation (fun s => lineLow x s (gaps inGaps)) s

/-- The receive line returns high: the low-line time becomes 0 (R104), and a BROKEN link enters LOST with recovery count 0
(R116). -/
def lineHigh (x : Axle) (s : State) : State :=
  let s1 := s.setLink x { s.link.get x with lowLineUs := 0 }
  if (s.link.get x).state = .broken then
    moveLink x .lost (s1.setLink x { s1.link.get x with recovery := 0 })
  else s1

/-- RECEIVE_LINE_HIGH (R116). -/
def execReceiveLineHigh (x : Axle) (s : State) : Answer := inOperation (lineHigh x) s

end Sys2Proof.Machine
end

