-- ==== Sys2Proof/Machine/Timers.lean ====
section
/-! DEFINITION. The timers that count on the 1 ms timer: HOST_ENTRY_EXPIRY, ARM_WINDOW_EXPIRY, LINK_TIMER_EXPIRY, and the
1 ms timer itself (R51, R52, R115, R133). -/

namespace Sys2Proof.Machine

/-- The 1 ms timer that the Timebase derives from REFCLK advances (R51, R115, R133). -/
def msTimerRuns (s : State) : Bool := s.tb.refclk

/-! ### The three expiries -/

/-- A remaining time reaches 0 at this expiry of the 1 ms timer: it runs, and at most 1 ms is left (R51, log 4). -/
def runsOut (t : Option Nat) : Bool :=
  match t with
  | some n => decide (n ≤ 1)
  | none => false

/-- The host entry with this key expires where its remaining time reaches 0: it leaves the pool (R51, R52). An entry that a
CAP POST has given a new expiry stays (R53). -/
def hostEntryExpires (src : HostSource) (x : Axle) (d : Direction) (s : State) : State :=
  setPool (s.ct.pool.filter fun e => !(e.hasKey src x d && runsOut e.remaining)) s

/-- HOST_ENTRY_EXPIRY (R51, R52, log 4). -/
def execHostEntryExpiry (src : HostSource) (x : Axle) (d : Direction) (s : State) : Answer :=
  inOperation (fun s => if msTimerRuns s then hostEntryExpires src x d s else s) s

/-- The arm window timer expires in ARMING where it reaches 0 (R133). -/
def armWindowExpires (s : State) : State :=
  if s.oc.state = .arming ∧ runsOut s.oc.armWindow = true then
    s.setOc { s.oc with state := .disarmed, armWindow := none, lastOutcome := .window }
  else s

/-- ARM_WINDOW_EXPIRY (R133, log 4). -/
def execArmWindowExpiry (s : State) : Answer :=
  inOperation (fun s => if msTimerRuns s then armWindowExpires s else s) s

/-- A link timer expires where it reaches 0 (R115). -/
def linkTimerExpires (x : Axle) (s : State) (g : Gaps := noGaps) : State :=
  let l := s.link.get x
  if runsOut l.timer then
    match l.state with
    | .starting | .synced | .hunt => moveLink x .lost (s.setLink x { l with timer := none, recovery := 0 }) g
    | .lost => s.setLink x { l with timer := none, recovery := 0 }
    | .off | .broken => s
  else s

/-- LINK_TIMER_EXPIRY (R115, log 4). -/
def execLinkTimerExpiry (x : Axle) (s : State)
    (inGaps : List (ClaimGap × Meanwhile) := []) : Answer :=
  inOperation (fun s => if msTimerRuns s then linkTimerExpires x s (gaps inGaps) else s) s

/-! ### The 1 ms timer (log 3) -/

/-- A remaining time after one expiry of the 1 ms timer. -/
def countDown (t : Option Nat) : Option Nat := t.map fun n => n - 1

/-- The pool after one expiry of the 1 ms timer: entries whose remaining time has reached 0 are gone (R51, R52). -/
def poolTick (pool : List HostEntry) : List HostEntry :=
  (pool.map fun e => { e with remaining := countDown e.remaining }).filter fun e => !decide (e.remaining = some 0)

/-- The timers other than the host entries'. -/
inductive TickTimer where
  | armWindow
  | linkFront
  | linkRear
  deriving DecidableEq, Repr

/-- The timer has reached 0. -/
def TickTimer.due (t : TickTimer) (s : State) : Bool :=
  match t with
  | .armWindow => decide (s.oc.armWindow = some 0)
  | .linkFront => decide (s.link.front.timer = some 0)
  | .linkRear => decide (s.link.rear.timer = some 0)

/-- A timer that has reached 0 expires. -/
def expireDue (s : State) (t : TickTimer) : State :=
  if t.due s then
    match t with
    | .armWindow => armWindowExpires s
    | .linkFront => linkTimerExpires .front s
    | .linkRear => linkTimerExpires .rear s
  else s

/-- The six orders in which three timers can be taken. -/
def tickOrder (n : Nat) : List TickTimer :=
  match n % 6 with
  | 0 => [.armWindow, .linkFront, .linkRear]
  | 1 => [.armWindow, .linkRear, .linkFront]
  | 2 => [.linkFront, .armWindow, .linkRear]
  | 3 => [.linkFront, .linkRear, .armWindow]
  | 4 => [.linkRear, .armWindow, .linkFront]
  | _ => [.linkRear, .linkFront, .armWindow]

/-- Every remaining time counts down. -/
def countAllDown (s : State) : State :=
  let s1 := setPool (poolTick s.ct.pool) s
  let s2 := s1.setOc { s1.oc with armWindow := countDown s1.oc.armWindow }
  let s3 := s2.setLink .front { s2.link.front with timer := countDown s2.link.front.timer }
  s3.setLink .rear { s3.link.rear with timer := countDown s3.link.rear.timer }

/-- How many of the three timers have reached 0. -/
def dueCount (s : State) : Nat :=
  flag (TickTimer.due .armWindow s) + flag (TickTimer.due .linkFront s) + flag (TickTimer.due .linkRear s)

/-- The timers that have reached 0 expire. Where more than one has, the order is a free value (R133, R134, log 3). -/
def expireAllDue (s : State) : State :=
  if dueCount s < 2 then (tickOrder 0).foldl expireDue s
  else (tickOrder (Config.tickOrder s.freeIndex)).foldl expireDue (drawFree s)

/-- One expiry of the 1 ms timer (R51, R115, R133). While REFCLK is absent it does not advance. -/
def msTick (s : State) : State :=
  if s.resetnLow || !msTimerRuns s then s else expireAllDue (countAllDown s)

end Sys2Proof.Machine
end

