-- ==== Sys2Proof/Machine/FrameEnd.lean ====
section
/-! DEFINITION. COMMAND_FRAME_COMPLETE, and the trip that a link takes between the completion of its frame and the start of
the frame that waits (R108, R110; log 37). -/

namespace Sys2Proof.Machine

/-! ### What brings the trip -/

/-- How far the period operation can go before that trip: no issue reaches the link between the completion and the start of
the frame that waits, which follows at once (R107, R108). An operation that has issued can go on to its end. -/
def tripStage (through : Stage) (s : State) : Stage :=
  match s.se.work with
  | some w => if stageNumber .issue ≤ w.done then through else gapLimit .inverter through
  | none => gapLimit .inverter through

/-- The trip of a DEMAND_STALE that is due before the next stage of the operation is taken now (R39). -/
def takeDueTrip (s : State) : State :=
  match s.se.work with
  | some w =>
    let r := takeStaleTrip (w.done + 1) w s
    r.2.setSe { r.2.se with work := some r.1 }
  | none => s

/-- The event is taken: what its command does (R39, R115, R116, R137, R150, R151). -/
def takeTripEvent (e : TripEvent) (s : State) : State :=
  match e with
  | .torqueOff => takeRequest .torqueOff ownerTorqueOff s
  | .faultTest => takeRequest .faultTest ownerFaultTest s
  | .period through slip => takeDueTrip (periodExpiry (tripStage through s) s slip)
  | .linkTimer x => if msTimerRuns s then linkTimerExpires x s else s
  | .lineLow x => lineLow x s
  | .windowEnd edges => judgeWindow edges s

/-! ### The completion -/

/-- The frame in flight completes, and the link takes what `event` brings next (R108, "Completion first"): the break starts on
the free line and discards the frame that waits, which has not started. Where the event brings the link no break, the waiting
frame has started at once, before it. -/
def completesFirst (x : Axle) (event : State → State) (s : State) : State :=
  if (s.link.get x).inFlight.isSome then
    let t := event (freeLine x s)
    if (t.link.get x).breakSending then t else event (startWaiting x (freeLine x s))
  else event s

/-- The other axle. -/
def otherAxle : Axle → Axle
  | .front => .rear
  | .rear => .front

/-- The trip and the completion, or both links' completions before one trip. -/
def meetTrip (x : Axle) (m : MetTrip) (s : State) : State :=
  completesFirst x (if m.both then completesFirst (otherAxle x) (takeTripEvent m.event) else takeTripEvent m.event) s

/-- The completion, with the trip that meets it (R108). Which of the two the link takes first the spec leaves open: the operand
names the trip where the completion is first; a trip that is first is a command before this one (DESIGN CHOICE, log 37). Where
no frame in flight completes, no trip meets it. -/
def frameEnds (x : Axle) (met : Option MetTrip) (s : State) : State :=
  match met with
  | some m => if s.tb.refclk && (s.link.get x).inFlight.isSome then meetTrip x m s else frameCompletes x s
  | none => frameCompletes x s

/-- COMMAND_FRAME_COMPLETE (R108). -/
def execCommandFrameComplete (x : Axle) (s : State) (met : Option MetTrip := none) : Answer :=
  inOperation (frameEnds x met) s

end Sys2Proof.Machine
end

