-- ==== Sys2Proof/Machine/HostLine.lean ====
section
/-! DEFINITION. The host port's line: HOST_FRAME_RECEIVED, HOST_GAP_TIMEOUT, HOST_FRAME_SENT (R154 to R157, R161). -/

namespace Sys2Proof.Machine

/-- A host frame is judged bad: it is discarded and counted (R155, R156). -/
def badHostFrame (s : State) : State :=
  evaluateHostLink (s.setHp { s.hp with framer := none, gapUs := 0, badFrames := satInc 65535 s.hp.badFrames })

/-- A good frame joins the request queue if fewer than 4 wait; otherwise it is dropped and counted (R157). -/
def queueRequest (f : HostFrame) (s : State) : State :=
  if s.hp.requestQueue.length < Config.requestPlaces then
    s.setHp { s.hp with requestQueue := s.hp.requestQueue ++ [f] }
  else s.setHp { s.hp with dropped := satInc 65535 s.hp.dropped }

/-- A host frame is judged good: the bad-frame counter becomes 0 (R156), and the frame goes to the request queue (R157). -/
def goodHostFrame (f : HostFrame) (s : State) : State :=
  queueRequest f (evaluateHostLink (s.setHp { s.hp with framer := none, gapUs := 0, badFrames := 0 }))

/-- The receive framer takes one byte (R155). -/
def hostByte (s : State) (b : Byte) : State :=
  match s.hp.framer with
  | none => if b = 0xC5#8 then s.setHp { s.hp with framer := some [], gapUs := 0 } else s
  | some [] =>
    if b.toNat < 2 ∨ 82 < b.toNat then badHostFrame s
    else s.setHp { s.hp with framer := some [b], gapUs := 0 }
  | some (len :: rest) =>
    let held := len :: rest ++ [b]
    if held.length < len.toNat + 3 then s.setHp { s.hp with framer := some held, gapUs := 0 }
    else if hostFrameGood held then goodHostFrame (readHostFrame held) s
    else badHostFrame s

/-- Bytes arrive on HRX. While REFCLK is absent HP receives none (R154). -/
def hostBytes (bytes : List Byte) (s : State) : State :=
  if s.tb.refclk then bytes.foldl hostByte s else s

/-- HOST_FRAME_RECEIVED (R155). -/
def execHostFrameReceived (bytes : List Byte) (s : State) : Answer := inOperation (hostBytes bytes) s

/-- The gap inside a frame reaches 200 µs: the frame is bad (R155 step 4). While REFCLK is absent the gap timer holds
(R154). -/
def hostGap (s : State) : State :=
  if s.tb.refclk && s.hp.framer.isSome then badHostFrame s else s

/-- HOST_GAP_TIMEOUT (R155). -/
def execHostGapTimeout (s : State) : Answer := inOperation hostGap s

/-- The frame being sent ends, and the next one starts (R161). -/
def hostFrameSent (s : State) : State :=
  if s.tb.refclk && s.hp.sending.isSome then startHostFrame (s.setHp { s.hp with sending := none, sendBits := 0 })
  else s

/-- HOST_FRAME_SENT (R161). -/
def execHostFrameSent (s : State) : Answer := inOperation hostFrameSent s

end Sys2Proof.Machine
end

