-- ==== Sys2Proof/Machine/LinkRequests.lean ====
section
/-! DEFINITION. The LINK requests: LINK QUERY and LINK POST (R122, R123, R125). -/

namespace Sys2Proof.Machine

/-- The last command frame that started: seq and period number from its ring entry; 0 and 0 if none (R125, log 19). -/
def lastStartedFields (l : AxleLink) : List Byte :=
  match l.lastStarted.bind (ringFind l.ring) with
  | some e => [e.seq] ++ u32 e.period
  | none => u8 0 ++ u32 0

/-- The last status record; all 0 if none (R125, R172). -/
def statusRecordFields : Option StatusRecord → List Byte
  | none => List.replicate 9 0
  | some r => [r.flags] ++ i16 r.torque ++ u16 r.availDrive ++ u16 r.availRegen ++ i16 r.speed

/-- The notice: pending flag, code, argument. -/
def noticeFields : Option (Byte × Nat) → List Byte
  | none => List.replicate 4 0
  | some n => u8 1 ++ [n.1] ++ u16 n.2

/-- The eight counters in the order of the reply (R172). -/
def LinkCounters.fields (c : LinkCounters) : List Byte :=
  u16 c.framesSent ++ u16 c.framesAccepted ++ u16 c.badFrames ++ u16 c.replaced ++ u16 c.staleEchoes
    ++ u16 c.noticesLost ++ u16 c.breaks ++ u16 c.serviceTimeouts

/-- The fields of a LINK QUERY reply after the result code (R125, R172). -/
def queryFields (l : AxleLink) : List Byte :=
  u8 (flag l.acceptedSinceReady) ++ u8 l.state.code ++ u8 l.recovery ++ lastStartedFields l
    ++ statusRecordFields l.lastStatus ++ noticeFields l.notice
    ++ u8 l.service.state.code ++ [l.service.code] ++ u8 l.service.sentCount ++ l.counters.fields

/-- A query releases the notice slot (R122) and empties a finished outbound slot (R125). -/
def AxleLink.afterQuery (l : AxleLink) : AxleLink :=
  let l1 :=
    match l.notice with
    | some n => { l with notice := none, ackCode := some n.1, lostNotice := none }
    | none => l
  match l.service.state with
  | .done | .timedOut => { l1 with service := ServiceSlot.reset }
  | .empty | .queued | .sent => l1

/-- LINK QUERY: HP refuses a wrong axle RANGE, otherwise the link answers (R125, R159). -/
def ownerLinkQuery (f : HostFrame) (s : State) : State :=
  match readAxle (u8At f.payload 0) with
  | none => reply f .range (List.replicate 40 0) s
  | some x => reply f .ok (queryFields (s.link.get x)) (s.setLink x (s.link.get x).afterQuery)

def execLinkQuery (s : State) : Answer := inOperation (takeRequest .linkQuery ownerLinkQuery) s

/-- LINK POST: HP refuses a wrong axle RANGE, otherwise the link checks code and slot (R123, R159). 11.3 gives the request no
layout: the axle is read at offset 0, the service code at 1 and the argument, uint16, at 2 (DEDUCED, log 32). -/
def ownerLinkPost (f : HostFrame) (s : State) : State :=
  match readAxle (u8At f.payload 0) with
  | none => reply f .range [] s
  | some x =>
    let l := s.link.get x
    let code := byteAt f.payload 1
    if code = 0 then reply f .range [] s
    else if l.service.state = .queued ∨ l.service.state = .sent then reply f .busy [] s
    else reply f .ok [] (s.setLink x { l with service := ⟨.queued, code, u16At f.payload 2, 0⟩ })

def execLinkPost (s : State) : Answer := inOperation (takeRequest .linkPost ownerLinkPost) s

end Sys2Proof.Machine
end

