-- ==== Sys2Proof/Machine/ProfileRequests.lean ====
section
/-! DEFINITION. The PROFILE requests: WRITE, CHECK, READ, SELECT (R69 to R78, R81). -/

namespace Sys2Proof.Machine

/-- Field number "none" (R170). -/
def fieldNone : Nat := 255

/-- The slot a request names; above 7 there is none (R69). -/
def readSlot (n : Nat) : Option (Fin 8) := if h : n < 8 then some ⟨n, h⟩ else none

/-- What the checks of R69, R70 and R72 give: a refusal with its field number, or the profile written. -/
inductive WriteVerdict where
  | refuse (result : ResultCode) (field : Nat)
  | accept (profile : Profile)
  deriving DecidableEq, Repr

/-- The lowest field a mask does not name (R70 check 5). -/
def lowestUnnamed (mask : Nat) : Option Nat := fieldNumbers.find? fun n => !maskBit mask n

/-- The six checks of R70, in order. -/
def checkWrite (t : ProfileTable) (slot : Fin 8) (payload : List Byte) : WriteVerdict :=
  let mask := u32At payload 1
  let held := (t.slots.get slot).profile
  if slot = 0 then .refuse .guarded fieldNone
  else if slot = t.active then .refuse .busy fieldNone
  else if maskBit mask 30 then .refuse .fieldUnknown 30
  else if maskBit mask 31 then .refuse .fieldUnknown 31
  else if payload.length - 5 ≠ 2 * maskCount mask then .refuse .length fieldNone
  else
    match held, lowestUnnamed mask with
    | none, some n => .refuse .incomplete n
    | _, _ =>
      let merged := mergedProfile held mask (readValues payload (maskCount mask))
      match merged.firstBad with
      | some n => .refuse .range n
      | none => .accept merged

/-- A slot after a successful write: VALID, with its revision one higher, wrapping after 65535 (R71). -/
def ProfileSlot.written (v : ProfileSlot) (p : Profile) : ProfileSlot :=
  { profile := some p, revision := (v.revision + 1) % 65536 }

/-- The fields of a WRITE or CHECK reply. -/
def writeFields (field revision : Nat) : List Byte := u8 field ++ u16 revision

/-- PROFILE WRITE at its owner (R69 to R71). -/
def ownerProfileWrite (f : HostFrame) (s : State) : State :=
  match readSlot (u8At f.payload 0) with
  | none => reply f .range (writeFields fieldNone 0) s
  | some slot =>
    let v := s.pt.slots.get slot
    match checkWrite s.pt slot f.payload with
    | .refuse r n => reply f r (writeFields n v.revision) s
    | .accept p =>
      let v' := v.written p
      reply f .ok (writeFields fieldNone v'.revision)
        (s.setPt { s.pt with slots := s.pt.slots.set slot v' })

def execProfileWrite (s : State) : Answer := inOperation (takeRequest .profileWrite ownerProfileWrite) s

/-- PROFILE CHECK at its owner (R73). -/
def ownerProfileCheck (f : HostFrame) (s : State) : State :=
  match readSlot (u8At f.payload 0) with
  | none => reply f .range (writeFields fieldNone 0) s
  | some slot =>
    let v := s.pt.slots.get slot
    match checkWrite s.pt slot f.payload with
    | .refuse r n => reply f r (writeFields n v.revision) s
    | .accept _ => reply f .ok (writeFields fieldNone v.revision) s

def execProfileCheck (s : State) : Answer := inOperation (takeRequest .profileCheck ownerProfileCheck) s

/-- The values of the fields a mask names, in ascending order (R74). -/
def readFields (p : Profile) (mask : Nat) : List Byte :=
  (fieldNumbers.filter (maskBit mask)).flatMap fun n => u16 (p.toList.getD n 0)

/-- PROFILE READ at its owner (R74). -/
def ownerProfileRead (f : HostFrame) (s : State) : State :=
  let mask := u32At f.payload 1
  match readSlot (u8At f.payload 0) with
  | none => reply f .range (u8 fieldNone ++ u8 0 ++ u16 0) s
  | some slot =>
    let v := s.pt.slots.get slot
    if maskBit mask 30 then reply f .fieldUnknown (u8 30 ++ u8 0 ++ u16 0) s
    else if maskBit mask 31 then reply f .fieldUnknown (u8 31 ++ u8 0 ++ u16 0) s
    else
      reply f .ok
        (u8 fieldNone ++ u8 (flag v.profile.isSome) ++ u16 v.revision
          ++ (v.profile.map fun p => readFields p mask).getD []) s

def execProfileRead (s : State) : Answer := inOperation (takeRequest .profileRead ownerProfileRead) s

/-- A select that activates a slot and starts a blend from the last-used shares (R76, R78, R81). -/
def ProfileTable.select (t : ProfileTable) (target : Fin 8) (p : Profile) : ProfileTable :=
  { t with
    active := target
    startDrive := t.lastDrive
    startRegen := t.lastRegen
    blendStep := 0
    blendLength := p.blendPeriods
    blendRunning := decide (p.blendPeriods ≠ 0) }

/-- PROFILE SELECT at its owner (R75). -/
def ownerProfileSelect (f : HostFrame) (s : State) : State :=
  let previous := u8 s.pt.active.val
  match readSlot (u8At f.payload 0) with
  | none => reply f .range previous s
  | some target =>
    match (s.pt.slots.get target).profile with
    | none => reply f .empty previous s
    | some p =>
      if target = s.pt.active ∧ s.pt.blendRunning = false then reply f .ok previous s
      else reply f .ok previous (s.setPt (s.pt.select target p))

def execProfileSelect (s : State) : Answer := inOperation (takeRequest .profileSelect ownerProfileSelect) s

end Sys2Proof.Machine
end

