-- ==== Sys2Proof/Machine/Resets.lean ====
section
/-! DEFINITION. The resets: POWER_UP, PIN_RESET, RESETN_RELEASE, SOFTWARE_RESET (R167, R168). -/

namespace Sys2Proof.Machine

/-- Every block at its reset values, with this reset cause (R1, R27, R61, R63, R85, R98, R104, R120, R127, R141, R145,
R151, R153). The inputs RESETn and REFCLK, the free values drawn and the queue of commands are not the reset's. -/
def resetBlocks (cause : ResetCause) (s : State) : State :=
  { State.reset with
    hp := HostPort.reset cause
    tb := { Timebase.reset with refclk := s.tb.refclk }
    resetnLow := s.resetnLow
    freeIndex := s.freeIndex
    pending := s.pending }

/-- POWER_UP: a pin reset with cause POWER (R168). RESETn keeps the level it has (log 7). -/
def execPowerUp (s : State) : Answer := .next (resetBlocks .power s)

/-- PIN_RESET: RESETn is driven low, a pin reset is taken, and the part is held in reset (R168). -/
def execPinReset (s : State) : Answer := .next ((resetBlocks .pin s).setResetnLow true)

/-- RESETN_RELEASE: the part begins STANDBY (R168). -/
def execResetnRelease (s : State) : Answer := .next (s.setResetnLow false)

/-- The last byte of the RESET reply has been sent: a RESET has been taken, nothing waits in the transmit queue, and the
reply, where it is still the frame being sent, can end (R167, R154, log 11). -/
def resetReplySent (s : State) : Bool :=
  s.hp.resetTaken && s.hp.txQueue.isEmpty && (s.hp.sending.isNone || s.tb.refclk)

/-- The software reset: as a pin reset, but the cause reads SOFTWARE and what stands on the axle lines finishes there
(R111, R167). -/
def softwareReset (s : State) : State :=
  let s1 := resetBlocks .software s
  let s2 := s1.setLink .front { AxleLink.reset with tail := s.link.front.tailAfterReset }
  s2.setLink .rear { AxleLink.reset with tail := s.link.rear.tailAfterReset }

/-- SOFTWARE_RESET (R167). -/
def execSoftwareReset (s : State) : Answer :=
  inOperation (fun s => if resetReplySent s then softwareReset s else s) s

end Sys2Proof.Machine
end

