-- ==== Sys2Proof/Machine/Status.lean ====
section
/-! DEFINITION. STATUS: its items, each a separate look at its owner's state, and what is taken between the looks (R140,
R169; log 36). -/

namespace Sys2Proof.Machine

/-! ### The items -/

/-- One look at an item: its bytes as its owner's state stands (R169, R172). -/
def lookAt (i : StatusItem) (s : State) : List Byte :=
  match i with
  | .partState => u8 s.hp.part.code
  | .resetCause => u8 s.hp.cause.code
  | .ocState => u8 s.oc.state.code
  | .armOutcome => u8 s.oc.lastOutcome.code
  | .tripRecord => tripFields s.oc.tripRecord
  | .activeSlot => u8 s.pt.active.val
  | .blendRemaining => u8 s.pt.remaining
  | .frontLink => u8 s.link.front.state.code
  | .rearLink => u8 s.link.rear.state.code
  | .testSet => u16 (faultSet FaultRecord.test s.fu.records)
  | .demandAge => u16 ((s.di.current.map CurrentDemand.age).getD 0)
  | .acceptedCount => u16 s.di.acceptedCount
  | .periodNumber => u32 s.se.periodNumber
  | .badFrames => u16 s.hp.badFrames
  | .dropped => u16 s.hp.dropped
  | .overwrites => u16 s.di.overwrites
  | .duplicates => u16 s.di.duplicates
  | .reportSkips => u16 s.hp.reportSkips
  | .noticeSkips => u16 s.hp.noticeSkips

/-- The items in the order of the reply (R172). -/
def statusItems : List StatusItem :=
  [.partState, .resetCause, .ocState, .armOutcome, .tripRecord, .activeSlot, .blendRemaining, .frontLink, .rearLink,
   .testSet, .demandAge, .acceptedCount, .periodNumber, .badFrames, .dropped, .overwrites, .duplicates, .reportSkips,
   .noticeSkips]

/-! ### What is taken between the looks -/

/-- The state a command leaves. -/
def stateAfter (a : Answer) (s : State) : State :=
  match a with
  | .next t => t
  | .fault _ => s
  | .refused _ => s

/-- An owner's event is taken: what its command does. -/
def takeOwnerEvent (e : OwnerEvent) (s : State) : State :=
  stateAfter
    (match e with
      | .period through slip => execPeriodExpiry through s slip
      | .armWindow => execArmWindowExpiry s
      | .linkTimer x => execLinkTimerExpiry x s
      | .statusFrame x bytes => execStatusFrameAccepted x bytes s
      | .badFrame x bytes framingError => execStatusFrameBad x bytes framingError s
      | .gapCut x => execReceiveGapCut x s
      | .lineLow x => execLineLow90us x s
      | .lineHigh x => execReceiveLineHigh x s
      | .windowEnd edges => execClockCheckWindowEnd edges s)
    s

/-- The state in which HP looks at an item: an event that is taken before the look is seen in it, one taken after is not
(R169). -/
def lookedAt (i : StatusItem) (during : List (List StatusItem × OwnerEvent)) (s : State) : State :=
  match during with
  | [] => s
  | (before, e) :: rest => if i ∈ before then s else lookedAt i rest (takeOwnerEvent e s)

/-- The state after all of them. -/
def afterLooks (during : List (List StatusItem × OwnerEvent)) (s : State) : State :=
  during.foldl (fun s e => takeOwnerEvent e.2 s) s

/-! ### The request -/

/-- The fields of a STATUS reply after the result code (R169, R172). -/
def statusFields (during : List (List StatusItem × OwnerEvent)) (s : State) : List Byte :=
  statusItems.flatMap fun i => lookAt i (lookedAt i during s)

/-- STATUS at its owner (R169). The spec leaves open in which order HP looks at the items and what is taken between the looks:
the operand says both (DESIGN CHOICE, log 36). -/
def ownerStatus (during : List (List StatusItem × OwnerEvent)) (f : HostFrame) (s : State) : State :=
  reply f .ok (statusFields during s) (afterLooks during s)

/-- STATUS (R169). -/
def execStatus (s : State) (during : List (List StatusItem × OwnerEvent) := []) : Answer :=
  inOperation (takeRequest .status (ownerStatus during)) s

end Sys2Proof.Machine
end

