-- ==== Sys2Proof/Machine/Dispatch.lean ====
section
/-! DEFINITION. One arm per command: the command's effect on everything but the queue. -/

namespace Sys2Proof.Machine

def exec (i : Instr) (s : State) : Host.Outcome State Fault Refusal :=
  match i with
  | .powerUp => Sys2Proof.Machine.execPowerUp s
  | .pinReset => Sys2Proof.Machine.execPinReset s
  | .resetnRelease => Sys2Proof.Machine.execResetnRelease s
  | .softwareReset => Sys2Proof.Machine.execSoftwareReset s
  | .hostFrameReceived bytes => Sys2Proof.Machine.execHostFrameReceived bytes s
  | .hostGapTimeout => Sys2Proof.Machine.execHostGapTimeout s
  | .hostFrameSent => Sys2Proof.Machine.execHostFrameSent s
  | .setup => Sys2Proof.Machine.execSetup s
  | .reset => Sys2Proof.Machine.execReset s
  | .status during => Sys2Proof.Machine.execStatus s during
  | .paramSet => Sys2Proof.Machine.execParamSet s
  | .paramGet => Sys2Proof.Machine.execParamGet s
  | .sync => Sys2Proof.Machine.execSync s
  | .kindUnknown => Sys2Proof.Machine.execKindUnknown s
  | .demand => Sys2Proof.Machine.execDemand s
  | .capPost => Sys2Proof.Machine.execCapPost s
  | .capWithdraw => Sys2Proof.Machine.execCapWithdraw s
  | .capWithdrawSource => Sys2Proof.Machine.execCapWithdrawSource s
  | .capList => Sys2Proof.Machine.execCapList s
  | .profileWrite => Sys2Proof.Machine.execProfileWrite s
  | .profileCheck => Sys2Proof.Machine.execProfileCheck s
  | .profileRead => Sys2Proof.Machine.execProfileRead s
  | .profileSelect => Sys2Proof.Machine.execProfileSelect s
  | .linkQuery => Sys2Proof.Machine.execLinkQuery s
  | .linkPost => Sys2Proof.Machine.execLinkPost s
  | .arm => Sys2Proof.Machine.execArm s
  | .disarm => Sys2Proof.Machine.execDisarm s
  | .torqueOff => Sys2Proof.Machine.execTorqueOff s
  | .clearTrip => Sys2Proof.Machine.execClearTrip s
  | .faultRead => Sys2Proof.Machine.execFaultRead s
  | .faultMask => Sys2Proof.Machine.execFaultMask s
  | .faultTest => Sys2Proof.Machine.execFaultTest s
  | .periodExpiry through slip => Sys2Proof.Machine.execPeriodExpiry through s slip
  | .hostEntryExpiry source axle dir => Sys2Proof.Machine.execHostEntryExpiry source axle dir s
  | .armWindowExpiry => Sys2Proof.Machine.execArmWindowExpiry s
  | .linkTimerExpiry axle inGaps => Sys2Proof.Machine.execLinkTimerExpiry axle s inGaps
  | .commandFrameComplete axle met => Sys2Proof.Machine.execCommandFrameComplete axle s met
  | .breakEnd axle => Sys2Proof.Machine.execBreakEnd axle s
  | .statusFrameAccepted axle bytes inGaps => Sys2Proof.Machine.execStatusFrameAccepted axle bytes s inGaps
  | .statusFrameBad axle bytes framingError => Sys2Proof.Machine.execStatusFrameBad axle bytes framingError s
  | .receiveGapCut axle => Sys2Proof.Machine.execReceiveGapCut axle s
  | .lineLow90us axle inGaps => Sys2Proof.Machine.execLineLow90us axle s inGaps
  | .receiveLineHigh axle => Sys2Proof.Machine.execReceiveLineHigh axle s
  | .clockCheckWindowEnd edges inGaps => Sys2Proof.Machine.execClockCheckWindowEnd edges s inGaps
  | .refclkStops held => Sys2Proof.Machine.execRefclkStops held s
  | .refclkReturns => Sys2Proof.Machine.execRefclkReturns s

end Sys2Proof.Machine
end

