-- ==== Sys2Proof/Machine/Step.lean ====
section
/-! DEFINITION. One step of the block: the command at the front of the queue, or one expiry of the 1 ms timer where none
waits. -/

namespace Sys2Proof.Machine

/-- The command at the front of `s.pending` is taken with the queue's rest. On an empty queue the 1 ms timer of the Timebase
expires once (R51, R115, R133; DESIGN CHOICE, log 3). -/
def step (s : State) : Host.Outcome State Fault Refusal :=
  match s.pending with
  | [] => .next (msTick s)
  | c :: rest => exec c (s.setPending rest)

/-- `s` with the command that a word spells at the front of its queue; unchanged where the word spells none, and no word
does (log 26). -/
def State.withFetchWord (s : State) (nbits w : Nat) : State :=
  match decodeTableWord nbits w with
  | some c => s.setPending (c :: s.pending)
  | none => s

end Sys2Proof.Machine
end

