-- ==== Sys2Proof/Safety.lean ====
section
/-! DEFINITION. The terms claims use: the parts of the state a command may change, the frames on their way out, the request
HP takes, the Fault Unit's takes, and the properties every step keeps. -/

namespace Sys2Proof.Machine

/-! ### Frames: which parts of the state a command changes -/

/-- The parts of the state, each a register, a queue or a group of registers that one rule moves together. -/
inductive Part where
  | se
  | di
  /-- The sixteen internal slots of the Cap Table. -/
  | slots
  /-- The host pool. -/
  | pool
  | pt
  | sm (x : Axle)
  | tm (x : Axle)
  /-- The transmit line of a link: frame in flight, waiting frame, break. -/
  | line (x : Axle)
  /-- A link's frame sequence, history ring and last frame started. -/
  | seq (x : Axle)
  /-- A link's outbound service slot. -/
  | service (x : Axle)
  /-- A link's notice slot, lost notice code and acknowledged code. -/
  | notices (x : Axle)
  /-- What a link's receiver holds of the line: partial frame, gap, low-line time. -/
  | rx (x : Axle)
  /-- A link's state. -/
  | linkState (x : Axle)
  /-- A link's timer, recovery count and consecutive bad count. -/
  | sync (x : Axle)
  /-- A link's last status record and frame-accepted flag. -/
  | record (x : Axle)
  /-- A link's counters. -/
  | counters (x : Axle)
  | out
  | oc
  | fu
  /-- The transmit side of the host port: queue and frame being sent. -/
  | tx
  /-- The report-skip and notice-skip counters. -/
  | skips
  /-- The request queue. -/
  | requests
  /-- The dropped counter. -/
  | dropped
  /-- The receive framer, its gap timer and the bad-frame counter. -/
  | framer
  | params
  /-- The part state. -/
  | part
  /-- The reset cause, and whether a RESET has been taken. -/
  | cause
  /-- The pending SYNC. -/
  | syncPending
  /-- HOST_LINK as last signalled. -/
  | hostLink
  | tb
  | resetn
  | free
  | queue
  deriving DecidableEq, Repr

/-- The part is the same in both states. -/
def Part.same : Part → State → State → Prop
  | .se, s, t => t.se = s.se
  | .di, s, t => t.di = s.di
  | .slots, s, t => t.ct.slots = s.ct.slots
  | .pool, s, t => t.ct.pool = s.ct.pool
  | .pt, s, t => t.pt = s.pt
  | .sm x, s, t => t.sm.get x = s.sm.get x
  | .tm x, s, t => t.tm.get x = s.tm.get x
  | .line x, s, t =>
    (t.link.get x).inFlight = (s.link.get x).inFlight ∧ (t.link.get x).txBits = (s.link.get x).txBits
      ∧ (t.link.get x).waiting = (s.link.get x).waiting
      ∧ (t.link.get x).breakSending = (s.link.get x).breakSending ∧ (t.link.get x).tail = (s.link.get x).tail
  | .seq x, s, t =>
    (t.link.get x).frameSeq = (s.link.get x).frameSeq ∧ (t.link.get x).ring = (s.link.get x).ring
      ∧ (t.link.get x).lastStarted = (s.link.get x).lastStarted
  | .service x, s, t => (t.link.get x).service = (s.link.get x).service
  | .notices x, s, t =>
    (t.link.get x).notice = (s.link.get x).notice ∧ (t.link.get x).lostNotice = (s.link.get x).lostNotice
      ∧ (t.link.get x).ackCode = (s.link.get x).ackCode
  | .rx x, s, t =>
    (t.link.get x).partialBytes = (s.link.get x).partialBytes ∧ (t.link.get x).rxGapUs = (s.link.get x).rxGapUs
      ∧ (t.link.get x).lowLineUs = (s.link.get x).lowLineUs
  | .linkState x, s, t => (t.link.get x).state = (s.link.get x).state
  | .sync x, s, t =>
    (t.link.get x).timer = (s.link.get x).timer ∧ (t.link.get x).recovery = (s.link.get x).recovery
      ∧ (t.link.get x).badRun = (s.link.get x).badRun
  | .record x, s, t =>
    (t.link.get x).acceptedSinceReady = (s.link.get x).acceptedSinceReady
      ∧ (t.link.get x).lastStatus = (s.link.get x).lastStatus
  | .counters x, s, t => (t.link.get x).counters = (s.link.get x).counters
  | .out, s, t => t.out = s.out
  | .oc, s, t => t.oc = s.oc
  | .fu, s, t => t.fu = s.fu
  | .tx, s, t =>
    t.hp.txQueue = s.hp.txQueue ∧ t.hp.sending = s.hp.sending ∧ t.hp.sendBits = s.hp.sendBits
  | .skips, s, t => t.hp.reportSkips = s.hp.reportSkips ∧ t.hp.noticeSkips = s.hp.noticeSkips
  | .requests, s, t => t.hp.requestQueue = s.hp.requestQueue
  | .dropped, s, t => t.hp.dropped = s.hp.dropped
  | .framer, s, t =>
    t.hp.framer = s.hp.framer ∧ t.hp.gapUs = s.hp.gapUs ∧ t.hp.badFrames = s.hp.badFrames
  | .params, s, t => t.hp.params = s.hp.params
  | .part, s, t => t.hp.part = s.hp.part
  | .cause, s, t => t.hp.cause = s.hp.cause ∧ t.hp.resetTaken = s.hp.resetTaken
  | .syncPending, s, t => t.hp.pendingSync = s.hp.pendingSync
  | .hostLink, s, t => t.hp.hostLinkLive = s.hp.hostLinkLive
  | .tb, s, t => t.tb = s.tb
  | .resetn, s, t => t.resetnLow = s.resetnLow
  | .free, s, t => t.freeIndex = s.freeIndex
  | .queue, s, t => t.pending = s.pending

/-- Every part but the listed ones is unchanged. -/
def OnlyChanges (ps : List Part) (s t : State) : Prop := ∀ p : Part, p ∉ ps → p.same s t

/-- What a signal that gives no forcing notice may change: the records and ATTN, and the notice it offers (R143). -/
def signalParts : List Part := [.fu, .tx, .skips]

/-- What a trip may change: Output Control, both transmit lines, the monitors with their SLIP entries and conditions
(R136). -/
def tripParts : List Part :=
  [.oc, .line .front, .line .rear, .sm .front, .sm .rear, .tm .front, .tm .rear, .slots, .fu, .tx, .skips]

/-! ### Replies -/

/-- The frames on their way out on HTX: the one being sent, then the transmit queue (R161). -/
def outbox (s : State) : List HostFrame := s.hp.sending.toList ++ s.hp.txQueue

/-- HP can take `f`, which stands at the head of its queue: the part is not held in reset, no RESET has been taken, and a
transmit place is free beyond one kept for a pending SYNC (R158, R167, R168). -/
def AtHead (f : HostFrame) (s : State) : Prop :=
  s.resetnLow = false ∧ s.hp.resetTaken = false
    ∧ s.hp.txQueue.length + (if s.hp.pendingSync.isSome then 1 else 0) < 6
    ∧ s.hp.requestQueue.head? = some f

/-- HP takes `f` from the head of its queue as a request of kind `k` and hands it to its owner: it can take it, and the
three checks of R158 pass. -/
def Handed (k : RequestKind) (f : HostFrame) (s : State) : Prop :=
  s.resetnLow = false ∧ s.hp.resetTaken = false
    ∧ s.hp.txQueue.length + (if s.hp.pendingSync.isSome then 1 else 0) < 6
    ∧ s.hp.requestQueue.head? = some f ∧ f.kind = k.code
    ∧ k.lengthOk f.payload.length = true ∧ k.refusedByState s.hp.part = false

/-- The request `f` has been taken and answered: it has left the request queue, and its reply, with this result code and
these fields, is the last of the frames on their way out (R157, R160, R161). -/
def Answered (f : HostFrame) (r : ResultCode) (fields : List Byte) (s t : State) : Prop :=
  t.hp.requestQueue = s.hp.requestQueue.tail ∧ outbox t = outbox s ++ [⟨f.kind + 0x80#8, f.tag, u8 r.code ++ fields⟩]

/-- As `Answered`, where one FAULT NOTICE may have been sent before the reply (R146). -/
def AnsweredAfterNotice (f : HostFrame) (r : ResultCode) (fields : List Byte) (s t : State) : Prop :=
  t.hp.requestQueue = s.hp.requestQueue.tail
    ∧ ∃ notices : List HostFrame, notices.length ≤ 1 ∧ (∀ g ∈ notices, g.kind = 0xE1#8)
      ∧ outbox t = outbox s ++ notices ++ [⟨f.kind + 0x80#8, f.tag, u8 r.code ++ fields⟩]

/-! ### The Fault Unit's takes, and the notices they offer -/

/-- The fault's record has taken a signal that its condition is live, or is not: a change from absent to present sets latched
and adds one to the count, which stops at 255; a condition that its test field holds present gives no such change, and one that
becomes absent leaves latched and count as they are (R141, R143). -/
def LiveTaken (c : FaultCode) (live : Bool) (s t : State) : Prop :=
  faultRecord c t = { faultRecord c s with
    live := live
    latched := (faultRecord c s).latched || (live && !(faultRecord c s).present)
    count := if live = true ∧ (faultRecord c s).present = false then min ((faultRecord c s).count + 1) 255
             else (faultRecord c s).count }

/-- The fault's record has taken an event: latched is set, and the count is one higher, stopping at 255 (R142, R143). -/
def EventTaken (c : FaultCode) (s t : State) : Prop :=
  faultRecord c t = { faultRecord c s with latched := true, count := min ((faultRecord c s).count + 1) 255 }

/-- Every fault's record but the listed ones is unchanged. -/
def OnlyFaults (cs : List FaultCode) (s t : State) : Prop := ∀ c, c ∉ cs → faultRecord c t = faultRecord c s

/-- The port admits an unsolicited frame: the transmit queue is empty, no frame is being sent (R161), and no RESET has been taken
(R167, log 11). -/
def PortFree (s : State) : Prop := s.hp.txQueue = [] ∧ s.hp.sending = none ∧ s.hp.resetTaken = false

/-- The faults a FAULT NOTICE is offered for, in order of code: latched has gone from clear to set, the fault is not masked, and
NOTICES_ENABLE is 1 (R146). -/
def noticesDue (s t : State) : List FaultCode :=
  faultCodes.filter fun c => !(faultRecord c s).latched && (faultRecord c t).latched && !(faultRecord c t).masked
    && decide (t.hp.params.noticesEnable = 1)

/-- A FAULT NOTICE: tag 0, and the fault's code, its class and its count (R146, R160, R172). -/
def noticeOf (c : FaultCode) (t : State) : HostFrame where
  kind := 0xE1#8
  tag := 0
  payload := [BitVec.ofNat 8 c.code, if c.forcing then 1 else 0, BitVec.ofNat 8 (faultRecord c t).count]

/-- The notices due have been offered, and these frames follow on their way out: a free port admits the first notice due, which
keeps it busy for the others; each that is not admitted adds one to the notice-skip counter, which stops at 65535; where none is
due there is no notice and no skip (R146, R161, R172). -/
def NoticesSent (rest : List HostFrame) (s t : State) : Prop :=
  (PortFree s →
      outbox t = outbox s ++ ((noticesDue s t).take 1).map (fun c => noticeOf c t) ++ rest
        ∧ (1 < (noticesDue s t).length →
            t.hp.noticeSkips = min (s.hp.noticeSkips + ((noticesDue s t).length - 1)) 65535)
        ∧ ((noticesDue s t).length ≤ 1 → t.hp.noticeSkips = s.hp.noticeSkips))
    ∧ (¬PortFree s →
      outbox t = outbox s ++ rest
        ∧ (noticesDue s t ≠ [] → t.hp.noticeSkips = min (s.hp.noticeSkips + (noticesDue s t).length) 65535)
        ∧ (noticesDue s t = [] → t.hp.noticeSkips = s.hp.noticeSkips))
    ∧ t.hp.reportSkips = s.hp.reportSkips

/-- As `Answered`, where the request's effect first offers the FAULT NOTICEs that are due (R143, R146). That these come before the
reply is the model's reading, since R161 gives both orders (log 23). -/
def AnsweredAfterNotices (f : HostFrame) (r : ResultCode) (fields : List Byte) (s t : State) : Prop :=
  t.hp.requestQueue = s.hp.requestQueue.tail ∧ NoticesSent [⟨f.kind + 0x80#8, f.tag, u8 r.code ++ fields⟩] s t

/-- What a STATUS reply shows, each item as it stands in the state in which HP looked at it (R169, R170, R172). -/
def StatusShows (look : StatusItem → State) (p : List Byte) : Prop :=
  p.length = 36 ∧ u8At p 0 = 0
    ∧ u8At p 1 = (look .partState).hp.part.code ∧ u8At p 2 = (look .resetCause).hp.cause.code
    ∧ u8At p 3 = (look .ocState).oc.state.code ∧ u8At p 4 = (look .armOutcome).oc.lastOutcome.code
    ∧ ((look .tripRecord).oc.tripRecord = none → u8At p 5 = 0 ∧ u32At p 6 = 0)
    ∧ (∀ r, (look .tripRecord).oc.tripRecord = some r → u8At p 5 = r.cause.code ∧ u32At p 6 = r.period % 2 ^ 32)
    ∧ u8At p 10 = (look .activeSlot).pt.active.val
    ∧ u8At p 11 = (if (look .blendRemaining).pt.blendRunning then
        (look .blendRemaining).pt.blendLength - (look .blendRemaining).pt.blendStep else 0) % 256
    ∧ u8At p 12 = (look .frontLink).link.front.state.code ∧ u8At p 13 = (look .rearLink).link.rear.state.code
    ∧ (∀ c : FaultCode, (u16At p 14).testBit (c.code - 1) = (faultRecord c (look .testSet)).test)
    ∧ ((look .demandAge).di.current = none → u16At p 16 = 0)
    ∧ (∀ r, (look .demandAge).di.current = some r → u16At p 16 = r.age % 2 ^ 16)
    ∧ u16At p 18 = (look .acceptedCount).di.acceptedCount % 2 ^ 16
    ∧ u32At p 20 = (look .periodNumber).se.periodNumber % 2 ^ 32
    ∧ u16At p 24 = (look .badFrames).hp.badFrames % 2 ^ 16 ∧ u16At p 26 = (look .dropped).hp.dropped % 2 ^ 16
    ∧ u16At p 28 = (look .overwrites).di.overwrites % 2 ^ 16 ∧ u16At p 30 = (look .duplicates).di.duplicates % 2 ^ 16
    ∧ u16At p 32 = (look .reportSkips).hp.reportSkips % 2 ^ 16
    ∧ u16At p 34 = (look .noticeSkips).hp.noticeSkips % 2 ^ 16

/-- The command that an event between the looks of a STATUS stands for. -/
def eventCommand (e : OwnerEvent) : Instr :=
  match e with
  | .period through slip => .periodExpiry through slip
  | .armWindow => .armWindowExpiry
  | .linkTimer x => .linkTimerExpiry x
  | .statusFrame x bytes => .statusFrameAccepted x bytes
  | .badFrame x bytes framingError => .statusFrameBad x bytes framingError
  | .gapCut x => .receiveGapCut x
  | .lineLow x => .lineLow90us x
  | .lineHigh x => .receiveLineHigh x
  | .windowEnd edges => .clockCheckWindowEnd edges

/-- The measures of one axle link that REFCLK_STOPS tells. -/
def lineMeasures (x : Axle) (m : Measures) : LineMeasures :=
  match x with
  | .front => m.front
  | .rear => m.rear

/-- The command that takes a request of a kind. -/
def RequestKind.command : RequestKind → Instr
  | .setup => .setup
  | .reset => .reset
  | .status => .status
  | .paramSet => .paramSet
  | .paramGet => .paramGet
  | .sync => .sync
  | .demand => .demand
  | .capPost => .capPost
  | .capWithdraw => .capWithdraw
  | .capWithdrawSource => .capWithdrawSource
  | .capList => .capList
  | .profileWrite => .profileWrite
  | .profileCheck => .profileCheck
  | .profileRead => .profileRead
  | .profileSelect => .profileSelect
  | .linkQuery => .linkQuery
  | .linkPost => .linkPost
  | .arm => .arm
  | .disarm => .disarm
  | .torqueOff => .torqueOff
  | .clearTrip => .clearTrip
  | .faultRead => .faultRead
  | .faultMask => .faultMask
  | .faultTest => .faultTest

/-! ### Where an event finds the block -/

/-- Every block but the links is at its reset values after a reset with this cause; what the reset leaves alone is as
before (R1, R27, R61, R63, R85, R98, R120, R127, R141, R145, R151, R153). -/
def AtResetValues (cause : ResetCause) (s t : State) : Prop :=
  t.se = SplitEngine.reset ∧ t.di = DemandIntake.reset ∧ t.ct = CapTable.reset ∧ t.pt = ProfileTable.reset
    ∧ t.sm = ⟨SlipMonitor.reset, SlipMonitor.reset⟩ ∧ t.tm = ⟨TrackingMonitor.reset, TrackingMonitor.reset⟩
    ∧ t.out = OutRecord.reset ∧ t.oc = OutputControl.reset ∧ t.fu = FaultUnit.reset ∧ t.hp = HostPort.reset cause
    ∧ t.tb = { Timebase.reset with refclk := s.tb.refclk } ∧ t.freeIndex = s.freeIndex ∧ t.pending = s.pending

/-- The part receives and sends: it is not held in reset, and REFCLK is present (R101, R154, R168). -/
def Clocked (s : State) : Prop := s.resetnLow = false ∧ s.tb.refclk = true

/-- An expiry of the period timer begins a period operation now (R2, R4, R25). -/
def PeriodDue (s : State) : Prop := Clocked s ∧ s.se.timerRunning = true ∧ s.se.work = none

/-- A period operation stands after `n` stages with this record, and can go on: REFCLK is present, and no trip of a DEMAND_STALE
is under way (R4, R25, R39). -/
def Standing (n : Nat) (w : PeriodWork) (s : State) : Prop :=
  Clocked s ∧ s.se.work = some w ∧ w.done = n ∧ w.staleTripAt = none

/-- The slots of the Cap Table with another value in one of them. -/
abbrev InternalSlots.with (t : InternalSlots) (src : InternalSource) (x : Axle) (d : Direction) (limit period : Nat) :
    InternalSlots := t.set src x d (some ⟨limit, period⟩)

/-- From `s` to `t` a period operation that stood after stage 3 has done stage 4 alone, and its take found these slots and the
pool as in `s` (R8, R59, R60). -/
def TookCaps (w : PeriodWork) (slots : InternalSlots) (s t : State) : Prop :=
  t.se = { s.se with work := some { w with done := 4, caps := w.capsOf { s.ct with slots := slots } } }

/-! ### Properties every step keeps -/

/-- EN_F and EN_R are asserted exactly while OC is ARMED (R128). -/
def EnablesFollowArmed (s : State) : Prop :=
  s.oc.enF = decide (s.oc.state = .armed) ∧ s.oc.enR = decide (s.oc.state = .armed)

/-- In STANDBY every block but the Fault Unit, the Timebase and the host port's queues, framer and counters holds its reset
values; a link may still have a frame or break of the time before a software reset on its line (R1, R27, R61, R63, R85,
R98, R104, R111, R120, R127, R153). -/
def StandbyHoldsResetValues (s : State) : Prop :=
  s.hp.part = .standby →
    s.se = SplitEngine.reset ∧ s.di = DemandIntake.reset ∧ s.ct = CapTable.reset ∧ s.pt = ProfileTable.reset
      ∧ s.sm = ⟨SlipMonitor.reset, SlipMonitor.reset⟩ ∧ s.tm = ⟨TrackingMonitor.reset, TrackingMonitor.reset⟩
      ∧ s.link.front = { AxleLink.reset with tail := s.link.front.tail }
      ∧ s.link.rear = { AxleLink.reset with tail := s.link.rear.tail }
      ∧ s.out = OutRecord.reset ∧ s.oc = OutputControl.reset
      ∧ s.hp.params = Params.reset ∧ s.hp.pendingSync = none ∧ s.hp.hostLinkLive = false

/-- The period timer runs in READY and is stopped in STANDBY (R2). -/
def TimerRunsInReady (s : State) : Prop := s.se.timerRunning = decide (s.hp.part = .ready)

/-- A period operation in progress has REFCLK: as REFCLK stops, the operation is completed (R25, R166; log 40). -/
def OperationHasClock (s : State) : Prop := s.tb.refclk = false → s.se.work = none

/-- ATTN is asserted while the part is in STANDBY, or while at least one fault is latched and not masked (R145). -/
def AttnFollowsFaults (s : State) : Prop :=
  s.fu.attn = true ↔ s.hp.part = .standby ∨ ∃ c, (s.fu.records.get c).latched = true ∧ (s.fu.records.get c).masked = false

/-- The request queue holds at most 4 frames; the transmit queue, with a place kept for a pending SYNC, at most 6; the host
pool at most 12 entries, no two with one key; a history ring at most 4 entries (R42, R46, R106, R157, R158, R161). -/
def QueuesBounded (s : State) : Prop :=
  s.hp.requestQueue.length ≤ 4
    ∧ s.hp.txQueue.length + (if s.hp.pendingSync.isSome then 1 else 0) ≤ 6
    ∧ s.ct.pool.length ≤ 12
    ∧ s.link.front.ring.length ≤ 4 ∧ s.link.rear.ring.length ≤ 4

/-- No two entries of the host pool have the same key (R42, R46). -/
def PoolKeysDistinct (s : State) : Prop :=
  s.ct.pool.Pairwise fun a b => ¬(a.source = b.source ∧ a.axle = b.axle ∧ a.dir = b.dir)

/-- A link's LINK entries are present exactly while the link is in STARTING, LOST or BROKEN, and their limit is 0
(R118). -/
def LinkEntriesFollowState (s : State) : Prop :=
  ∀ x d, match s.ct.slots.get .link x d with
    | some v => (s.link.get x).state.isBlocked = true ∧ v.limit = 0
    | none => (s.link.get x).state.isBlocked = false

/-- The out record says of each link whether it is in LOST or BROKEN, and NO_AXLE is live while both are (R120). -/
def OutRecordFollowsLinks (s : State) : Prop :=
  s.out.frontOut = s.link.front.state.isOut ∧ s.out.rearOut = s.link.rear.state.isOut
    ∧ s.out.noAxleLive = (s.out.frontOut && s.out.rearOut)

/-- SM is in SLIP or RECOVER. -/
def SmState.isSlipping : SmState → Bool
  | .slip | .recover => true
  | .idle | .grip => false

/-- A Slip Monitor's cap is present, and its condition is live, exactly while it is in SLIP or RECOVER (R85, R96). -/
def SlipFollowsState (s : State) : Prop :=
  ∀ x, (s.sm.get x).cap.isSome = (s.sm.get x).state.isSlipping ∧ (s.sm.get x).live = (s.sm.get x).state.isSlipping

/-- The SLIP slots of an axle hold its Slip Monitor's cap in the counting direction, and nothing in the other; a cap is present
only with a counting direction, and is at most 8000 (R44, R85, R93). -/
def SlipEntriesFollowMonitors (s : State) : Prop :=
  (∀ x d, (s.ct.slots.get .slip x d).map CapSlot.limit
      = if (s.sm.get x).counting = some d then (s.sm.get x).cap else none)
    ∧ ∀ x cap, (s.sm.get x).cap = some cap → (s.sm.get x).counting.isSome = true ∧ cap ≤ 8000

/-- Each fault is live exactly while the condition its block signals holds; an event fault is never live (R19, R45, R96,
R119, R120, R142, R151, R156). -/
def FaultsFollowConditions (s : State) : Prop :=
  (faultRecord .hostLink s).live = s.hp.hostLinkLive
    ∧ (∀ x, (faultRecord (linkLostFault x) s).live = decide ((s.link.get x).state = .lost))
    ∧ (∀ x, (faultRecord (linkBreakFault x) s).live = decide ((s.link.get x).state = .broken))
    ∧ (faultRecord .noAxle s).live = s.out.noAxleLive
    ∧ (∀ x, (faultRecord (trackFault x) s).live = trackHeld x s)
    ∧ (∀ x, (faultRecord (slipFault x) s).live = (s.sm.get x).live)
    ∧ (faultRecord .shortfall s).live = s.se.shortfallLive
    ∧ (faultRecord .timebase s).live = s.tb.timebaseLive
    ∧ (faultRecord .demandStale s).live = false ∧ (faultRecord .capFull s).live = false
    ∧ (faultRecord .noticeLost s).live = false

/-- In READY, Output Control is TRIPPED while any FORCING condition is present, by live or by test (R136). -/
def ForcingHoldsTripped (s : State) : Prop :=
  s.hp.part = .ready → (∃ c, c.forcing = true ∧ (faultRecord c s).present = true) → s.oc.state = .tripped

/-- Every VALID slot holds a profile whose fields are all in range, and the active slot is VALID (R64, R66, R75). -/
def ProfilesInRange (s : State) : Prop :=
  (∀ n p, (s.pt.slots.get n).profile = some p → p.firstBad = none) ∧ (s.pt.slots.get s.pt.active).profile.isSome = true

/-- The profiles are in range, and every share PT holds is one: the last-used shares and the start shares of a blend are at
most 1000, and a running blend has steps left (R63, R67, R80). -/
def SharesInRange (s : State) : Prop :=
  ProfilesInRange s ∧ s.pt.lastDrive ≤ 1000 ∧ s.pt.lastRegen ≤ 1000 ∧ s.pt.startDrive ≤ 1000 ∧ s.pt.startRegen ≤ 1000
    ∧ (s.pt.blendRunning = true → s.pt.blendStep < s.pt.blendLength)

/-- The arm window timer runs only in ARMING (R133). -/
def WindowOnlyInArming (s : State) : Prop := s.oc.state ≠ .arming → s.oc.armWindow = none

end Sys2Proof.Machine
end

