-- ==== Sys2Proof/Certificates/Slice0/Obligations.lean ====
section
/-! DEFINITION. The statements for the provers. -/

section
open Sys2Proof Sys2Proof.Machine

/-! ### The step -/

/-- A step takes the command at the front of the queue and runs it with the queue's rest. -/
def Obligations.StepRunsFrontCommand : Prop :=
  ∀ (c : Instr) (rest : List Instr) (s : State), s.pending = c :: rest →
    step s = exec c { s with pending := rest }

/-- On an empty queue the 1 ms timer expires once: every running time falls by one, and a time that reaches 0 expires: a host
entry leaves the pool, the arm window ends ARMING, a link timer takes its link to LOST or, in LOST, ends the recovery count;
while the part is held in reset or REFCLK is absent nothing changes. A link that goes to LOST makes its fault live, with the
notice that is due (R51, R52, R115, R119, R133, R143, R146; that the step on an empty queue is one expiry is the model's choice,
log 3). -/
def Obligations.EmptyQueueIsOneMillisecond : Prop :=
  ∀ s : State, s.pending = [] →
    (¬Clocked s → step s = .next s)
    ∧ (Clocked s → s.oc.armWindow ≠ some 0 → s.oc.armWindow ≠ some 1 →
        (∀ x, (s.link.get x).timer ≠ some 0 ∧ (s.link.get x).timer ≠ some 1) →
        ∃ t, step s = .next t
          ∧ t.oc = { s.oc with armWindow := s.oc.armWindow.map fun n => n - 1 }
          ∧ (∀ x, t.link.get x = { s.link.get x with timer := (s.link.get x).timer.map fun n => n - 1 })
          ∧ t.ct.pool = (s.ct.pool.filter fun e => decide (e.remaining ≠ some 0) && decide (e.remaining ≠ some 1)).map
              (fun e => { e with remaining := e.remaining.map fun n => n - 1 })
          ∧ OnlyChanges [.oc, .pool, .sync .front, .sync .rear] s t)
    ∧ (Clocked s → s.oc.state = .arming → s.oc.armWindow = some 1 →
        (∀ x, (s.link.get x).timer ≠ some 0 ∧ (s.link.get x).timer ≠ some 1) →
        ∃ t, step s = .next t
          ∧ t.oc = { s.oc with state := .disarmed, armWindow := none, lastOutcome := .window }
          ∧ (∀ x, t.link.get x = { s.link.get x with timer := (s.link.get x).timer.map fun n => n - 1 })
          ∧ OnlyChanges [.oc, .pool, .sync .front, .sync .rear] s t)
    ∧ (Clocked s →
        ∃ t, step s = .next t
          ∧ t.ct.pool = (s.ct.pool.filter fun e => decide (e.remaining ≠ some 0) && decide (e.remaining ≠ some 1)).map
              (fun e => { e with remaining := e.remaining.map fun n => n - 1 }))
    ∧ (∀ x y l m, y ≠ x → l = s.link.get x → m = s.link.get y → Clocked s → l.timer = some 1 →
        m.timer ≠ some 0 → m.timer ≠ some 1 → s.oc.armWindow ≠ some 0 → s.oc.armWindow ≠ some 1 →
        (l.state = .synced ∨ l.state = .hunt ∨ l.state = .starting →
          ∃ t, step s = .next t ∧ (t.link.get x).state = .lost ∧ (t.link.get x).timer = none
            ∧ (t.link.get x).recovery = 0 ∧ (t.link.get x).badRun = l.badRun
            ∧ (t.link.get y).timer = (m.timer.map fun n => n - 1) ∧ (t.link.get y).recovery = m.recovery
            ∧ (t.link.get y).badRun = m.badRun
            ∧ (∀ src z d, src ≠ .slip → (src ≠ .link ∨ z ≠ x) → t.ct.slots.get src z d = s.ct.slots.get src z d)
            ∧ LiveTaken (linkLostFault x) true s t ∧ NoticesSent [] s t
            ∧ OnlyFaults [linkLostFault x, .noAxle, .slipF, .slipR] s t
            ∧ OnlyChanges [.oc, .pool, .sync .front, .sync .rear, .linkState x, .slots, .out, .fu, .tx, .skips,
                           .line .front, .line .rear, .sm .front, .sm .rear, .tm .front, .tm .rear] s t
            ∧ ((match y with | .front => s.out.frontOut | .rear => s.out.rearOut) = false → s.out.noAxleLive = false →
                t.oc = (if l.state = .synced ∧ s.oc.state = .arming then
                    { s.oc with state := .disarmed, armWindow := none, lastOutcome := .link }
                  else { s.oc with armWindow := s.oc.armWindow.map fun n => n - 1 })
                ∧ OnlyFaults [linkLostFault x] s t
                ∧ OnlyChanges [.oc, .pool, .sync .front, .sync .rear, .linkState x, .slots, .out, .fu, .tx, .skips] s t))
        ∧ (l.state = .lost →
          ∃ t, step s = .next t ∧ t.link.get x = { l with timer := none, recovery := 0 }
            ∧ t.link.get y = { m with timer := m.timer.map fun n => n - 1 }
            ∧ t.oc = { s.oc with armWindow := s.oc.armWindow.map fun n => n - 1 }
            ∧ OnlyChanges [.oc, .pool, .sync .front, .sync .rear] s t))

/-- Every command answers a next state, whatever the state and the operands, and leaves the queue of commands alone. That it
answers so also for an event that cannot occur in the state, where it changes nothing, is the model's choice (log 2). -/
def Obligations.EveryCommandAnswersNext : Prop :=
  ∀ (c : Instr) (s : State), ∃ t, exec c s = .next t ∧ t.pending = s.pending

/-! ### Resets -/

/-- The state after reset, and that every property below which a step keeps holds in it. That the cause there is POWER is the
model's choice (log 8). -/
def Obligations.ResetState : Prop :=
  State.reset.pending = []
    ∧ State.reset.hp.part = .standby ∧ State.reset.hp.cause = .power
    ∧ State.reset.hp.params = ⟨0, 0, 0, 0, 0, 0, 0, 0⟩
    ∧ State.reset.hp.requestQueue = [] ∧ outbox State.reset = []
    ∧ State.reset.oc.state = .disarmed ∧ State.reset.oc.enF = false ∧ State.reset.oc.enR = false
    ∧ State.reset.fu.attn = true
    ∧ (∀ c, faultRecord c State.reset
        = { live := false, test := false, latched := false, masked := decide (c = .slipF ∨ c = .slipR), count := 0 })
    ∧ (∀ x, (State.reset.link.get x).state = .off ∧ (State.reset.link.get x).timer = none)
    ∧ State.reset.pt.active = 0 ∧ State.reset.pt.lastDrive = 500 ∧ State.reset.pt.lastRegen = 500
    ∧ (∀ n : Fin 8, n ≠ 0 → State.reset.pt.slots.get n = { profile := none, revision := 0 })
    ∧ State.reset.se.periodNumber = 0 ∧ State.reset.se.timerRunning = false
    ∧ State.reset.tb.outsideRun = 0 ∧ State.reset.tb.insideRun = 0 ∧ State.reset.tb.timebaseLive = false
    ∧ EnablesFollowArmed State.reset ∧ WindowOnlyInArming State.reset ∧ ForcingHoldsTripped State.reset
    ∧ AttnFollowsFaults State.reset ∧ SharesInRange State.reset
    ∧ LinkEntriesFollowState State.reset ∧ OutRecordFollowsLinks State.reset ∧ SlipFollowsState State.reset
    ∧ SlipEntriesFollowMonitors State.reset
    ∧ FaultsFollowConditions State.reset
    ∧ StandbyHoldsResetValues State.reset ∧ TimerRunsInReady State.reset ∧ OperationHasClock State.reset
    ∧ QueuesBounded State.reset ∧ PoolKeysDistinct State.reset

/-- POWER_UP and PIN_RESET take a pin reset: every block at its reset values at once, the axle lines idle, with the cause
POWER or PIN; after PIN_RESET the part is held in reset (R168). POWER_UP leaves RESETn as it is (log 7). -/
def Obligations.PowerUpAndPinReset : Prop :=
  ∀ s : State,
    (∃ t, exec .powerUp s = .next t ∧ AtResetValues .power s t ∧ (∀ x, t.link.get x = AxleLink.reset)
      ∧ t.resetnLow = s.resetnLow)
    ∧ (∃ t, exec .pinReset s = .next t ∧ AtResetValues .pin s t ∧ (∀ x, t.link.get x = AxleLink.reset)
      ∧ t.resetnLow = true)

/-- RESETN_RELEASE ends the hold in reset and changes nothing else (R168). While the part is held, only the resets, the
release and the clock act (log 9). -/
def Obligations.ResetnReleaseAndHold : Prop :=
  (∀ s : State, ∃ t, exec .resetnRelease s = .next t ∧ t.resetnLow = false ∧ OnlyChanges [.resetn] s t)
    ∧ (∀ (c : Instr) (s : State), s.resetnLow = true →
        c ∉ [Instr.powerUp, .pinReset, .resetnRelease, .refclkReturns] → (∀ m, c ≠ .refclkStops m) →
        exec c s = .next s)

/-- RESET answers a pending SYNC ABORTED and then OK, and HP takes no further request; once the reply has gone,
SOFTWARE_RESET resets every block with cause SOFTWARE, and the frame in flight or the break of an axle line runs on there
(R101, R111, R166, R167). When SOFTWARE_RESET acts (a RESET taken, the transmit queue empty, nothing being sent or REFCLK present) is
the model's reading of R167 (log 11). -/
def Obligations.ResetRequestThenSoftwareReset : Prop :=
  (∀ (s : State) (f : HostFrame), Handed .reset f s →
    ∃ t, exec .reset s = .next t
      ∧ outbox t = outbox s
          ++ (match s.hp.pendingSync with
              | some y => [⟨0x86#8, y.tag, [0x0F#8, 0, 0, 0, 0]⟩]
              | none => [])
          ++ [⟨0x82#8, f.tag, [0x00#8]⟩]
      ∧ t.hp.requestQueue = s.hp.requestQueue.tail ∧ t.hp.pendingSync = none ∧ t.hp.resetTaken = true
      ∧ t.hp.cause = s.hp.cause
      ∧ OnlyChanges [.tx, .requests, .syncPending, .cause] s t)
    ∧ (∀ (s : State) (k : RequestKind), s.hp.resetTaken = true →
        exec k.command s = .next s ∧ exec .kindUnknown s = .next s)
    ∧ (∀ s : State, s.resetnLow = false → s.hp.resetTaken = true → s.hp.txQueue = [] →
        (s.hp.sending = none ∨ s.tb.refclk = true) →
        ∃ t, exec .softwareReset s = .next t ∧ AtResetValues .software s t ∧ t.resetnLow = false
          ∧ ∀ x, ∃ tail, t.link.get x = { AxleLink.reset with tail := tail }
            ∧ (∀ g, (s.link.get x).inFlight = some g → tail = .frame g (s.link.get x).txBits)
            ∧ ((s.link.get x).inFlight = none → (s.link.get x).breakSending = true → tail = .brk)
            ∧ ((s.link.get x).inFlight = none → (s.link.get x).breakSending = false → tail = (s.link.get x).tail))

/-! ### The host port's line -/

/-- The bytes of a host frame, received out of frame, are judged good: the frame joins the request queue, or is dropped and
counted where 4 wait, the bad-frame counter becomes 0, and HOST_LINK is judged afresh, the Fault Unit taking a change of it
(R143, R146, R154 to R157, R170, R174). -/
def Obligations.GoodHostFrameIsQueued : Prop :=
  ∀ (s : State) (f : HostFrame), Clocked s → s.hp.framer = none → f.payload.length ≤ 80 →
    ∃ t, exec (.hostFrameReceived f.bytes) s = .next t
      ∧ t.hp.requestQueue = (if s.hp.requestQueue.length < 4 then s.hp.requestQueue ++ [f] else s.hp.requestQueue)
      ∧ t.hp.dropped = (if s.hp.requestQueue.length < 4 then s.hp.dropped else min (s.hp.dropped + 1) 65535)
      ∧ t.hp.framer = none ∧ t.hp.badFrames = 0
      ∧ t.hp.hostLinkLive = (decide (s.hp.part = .ready) && decide (s.hp.params.hostErrorLimit = 0))
      ∧ (t.hp.hostLinkLive ≠ s.hp.hostLinkLive → LiveTaken .hostLink t.hp.hostLinkLive s t)
      ∧ (t.hp.hostLinkLive = s.hp.hostLinkLive → OnlyFaults [] s t)
      ∧ OnlyFaults [.hostLink] s t ∧ NoticesSent [] s t
      ∧ OnlyChanges [.framer, .requests, .dropped, .hostLink, .fu, .tx, .skips] s t

/-- A host frame is bad where its CRC does not match, where LEN lies outside 2..82, and where a gap falls inside it: it is
discarded and counted, and HOST_LINK is judged afresh; where it changes, its record follows, latching and counting as it becomes
present, and the notice that is due is offered. Out of frame a byte other than 0xC5 counts for nothing, and so does a gap (R143,
R146, R155, R156). -/
def Obligations.BadHostFrameIsCounted : Prop :=
  (∀ (s : State) (c : Instr), Clocked s →
      ((∃ (f : HostFrame) (code : Crc), c = .hostFrameReceived ([0xC5#8] ++ f.covered ++ u16 code.toNat)
          ∧ s.hp.framer = none ∧ f.payload.length ≤ 80 ∧ code ≠ crc16 f.covered)
        ∨ (∃ len : Byte, c = .hostFrameReceived [0xC5#8, len] ∧ s.hp.framer = none ∧ (len.toNat < 2 ∨ 82 < len.toNat))
        ∨ (c = .hostGapTimeout ∧ s.hp.framer.isSome = true)) →
      ∃ t, exec c s = .next t
        ∧ t.hp.framer = none ∧ t.hp.badFrames = min (s.hp.badFrames + 1) 65535
        ∧ t.hp.hostLinkLive = (decide (s.hp.part = .ready) && decide (s.hp.params.hostErrorLimit ≤ t.hp.badFrames))
        ∧ (t.hp.hostLinkLive ≠ s.hp.hostLinkLive → LiveTaken .hostLink t.hp.hostLinkLive s t)
        ∧ (t.hp.hostLinkLive = s.hp.hostLinkLive → OnlyFaults [] s t)
        ∧ OnlyFaults [.hostLink] s t ∧ NoticesSent [] s t
        ∧ OnlyChanges [.framer, .hostLink, .fu, .tx, .skips] s t)
    ∧ (∀ (s : State) (b : Byte), s.hp.framer = none → b ≠ 0xC5#8 → exec (.hostFrameReceived [b]) s = .next s)
    ∧ (∀ s : State, s.hp.framer = none → exec .hostGapTimeout s = .next s)

/-- The frame being sent ends, and the frame at the head of the transmit queue starts (R161). -/
def Obligations.HostFrameSentStartsNext : Prop :=
  ∀ (s : State) (g : HostFrame), Clocked s → s.hp.sending = some g →
    ∃ t, exec .hostFrameSent s = .next t
      ∧ t.hp.sending = s.hp.txQueue.head? ∧ t.hp.txQueue = s.hp.txQueue.tail
      ∧ OnlyChanges [.tx] s t

/-! ### The dispatch of requests -/

/-- The request-by-state table: in STANDBY all but SETUP, RESET, STATUS, PARAM GET and FAULT READ are refused STATE, in READY
SETUP is; each reply field is 0, but for ARM's condition number 1 (R158, R159, R160). -/
def Obligations.RefusedByStateTable : Prop :=
  ∀ (s : State) (f : HostFrame) (k : RequestKind), AtHead f s → f.kind = k.code →
    k.lengthOk f.payload.length = true →
    ((s.hp.part = .standby ∧ k ∉ [RequestKind.setup, .reset, .status, .paramGet, .faultRead])
      ∨ (s.hp.part = .ready ∧ k = .setup)) →
    ∃ t, exec k.command s = .next t
      ∧ Answered f .state (if k = .arm then [1#8] else List.replicate k.replyFieldBytes 0#8) s t
      ∧ OnlyChanges [.tx, .requests] s t

/-- A request whose KIND is no request kind is refused KIND_UNKNOWN, one of a wrong payload length LENGTH, with no field. A
request that does not stand at the head, or for whose reply no place is free, is not taken (R158, R160; log 2, log 10). -/
def Obligations.KindAndLengthRefused : Prop :=
  (∀ (s : State) (f : HostFrame), AtHead f s → (∀ k : RequestKind, f.kind ≠ k.code) →
      ∃ t, exec .kindUnknown s = .next t ∧ Answered f .kindUnknown [] s t ∧ OnlyChanges [.tx, .requests] s t)
    ∧ (∀ (s : State) (f : HostFrame) (k : RequestKind), AtHead f s → f.kind = k.code →
        (if k = .profileWrite ∨ k = .profileCheck then f.payload.length < 5 else f.payload.length ≠ k.payloadBytes) →
        ∃ t, exec k.command s = .next t ∧ Answered f .length [] s t ∧ OnlyChanges [.tx, .requests] s t)
    ∧ (∀ (s : State) (k : RequestKind),
        (∀ f, s.hp.requestQueue.head? = some f → f.kind ≠ k.code)
          ∨ 6 ≤ s.hp.txQueue.length + (if s.hp.pendingSync.isSome then 1 else 0) →
        exec k.command s = .next s)

/-! ### Requests about the part -/

/-- SETUP: at the first of the eight values out of range it is refused RANGE with that parameter number; otherwise the
parameters take the values, every block takes READY entry, and Output Control trips at its check where a FORCING condition is
present; HOST_LINK is judged, and its record follows. The clock check, the receive framer, the bad-frame and dropped counters
and the reset cause stay as they are (R104, R118, R127, R136, R143, R146, R151, R153, R156, R162, R163). That a link loses what
a software reset left on its transmit line is the model's reading (log 13). That the FAULT NOTICE of HOST_LINK enters the
transmit queue before the reply is the model's reading, since R161 gives both orders (log 23). -/
def Obligations.SetupEntersReady : Prop :=
  ∀ (s : State) (f : HostFrame) (p : Params), Handed .setup f s → p = readSetup f.payload →
    (∀ n, 1 ≤ n → n ≤ 8 → paramInRange n ((p.value n).getD 0) = false →
        (∀ m, 1 ≤ m → m < n → paramInRange m ((p.value m).getD 0) = true) →
        ∃ t, exec .setup s = .next t ∧ Answered f .range [BitVec.ofNat 8 n] s t ∧ OnlyChanges [.tx, .requests] s t)
    ∧ ((∀ n, 1 ≤ n → n ≤ 8 → paramInRange n ((p.value n).getD 0) = true) →
        ∃ t, exec .setup s = .next t
          ∧ AnsweredAfterNotices f .ok [0#8] s t
          ∧ OnlyChanges [.se, .di, .slots, .pool, .pt, .sm .front, .sm .rear, .tm .front, .tm .rear, .line .front,
                         .line .rear, .seq .front, .seq .rear, .service .front, .service .rear, .notices .front,
                         .notices .rear, .rx .front, .rx .rear, .linkState .front, .linkState .rear, .sync .front,
                         .sync .rear, .record .front, .record .rear, .counters .front, .counters .rear, .out, .oc, .fu,
                         .tx, .skips, .requests, .params, .part, .hostLink] s t
          ∧ t.hp.params = p ∧ t.hp.part = .ready
          ∧ t.se = { SplitEngine.reset with timerRunning := true } ∧ t.di = DemandIntake.reset
          ∧ t.ct.pool = []
          ∧ (∀ src x d, t.ct.slots.get src x d = if src = .link then some ⟨0, 0⟩ else none)
          ∧ t.pt = { s.pt with blendRunning := false, startDrive := 0, startRegen := 0, blendStep := 0,
                               blendLength := 0, lastDrive := 500, lastRegen := 500 }
          ∧ (∀ x, t.sm.get x = SlipMonitor.reset) ∧ (∀ x, t.tm.get x = TrackingMonitor.reset)
          ∧ t.out = OutRecord.reset
          ∧ t.hp.hostLinkLive = decide (p.hostErrorLimit ≤ s.hp.badFrames)
          ∧ (t.hp.hostLinkLive ≠ s.hp.hostLinkLive → LiveTaken .hostLink t.hp.hostLinkLive s t)
          ∧ (t.hp.hostLinkLive = s.hp.hostLinkLive → OnlyFaults [] s t)
          ∧ OnlyFaults [.hostLink] s t
          ∧ (t.fu.attn = true ↔ ∃ c, (faultRecord c t).latched = true ∧ (faultRecord c t).masked = false)
          ∧ ((∀ c, c.forcing = true → (faultRecord c s).present = false) →
              t.oc = OutputControl.reset
                ∧ ∀ x, t.link.get x = { AxleLink.reset with state := .starting, timer := some p.linkTimeoutMs })
          ∧ (∀ c, c.forcing = true → (faultRecord c s).present = true →
              (∀ d : FaultCode, d.forcing = true → d.code < c.code → (faultRecord d s).present = false) →
              t.oc = { OutputControl.reset with state := .tripped, tripRecord := some ⟨.fault c, 0⟩ }
                ∧ ∀ x, t.link.get x = { AxleLink.reset with state := .starting, timer := some p.linkTimeoutMs,
                                                            breakSending := true }))

/-- The STATUS reply: thirty-six bytes, each item at the offset of R172 as one look at its owner's state finds it. Where nothing
is taken between the looks every item is as the request found it, and nothing else changes. An owner's event between the looks
is seen in the items that are looked at after it and not in the others (R140, R169, R170, R172). That the operand says which
events fall between the looks, and which items are looked at before each, is the model's choice (log 36). -/
def Obligations.StatusReply : Prop :=
  (∀ (s w : State) (f : HostFrame) (during : List (List StatusItem × OwnerEvent)), Handed .status f s →
      w = s.setHp { s.hp with requestQueue := s.hp.requestQueue.tail } →
      ∃ t p, exec (.status during) s = .next t
        ∧ t.hp.requestQueue = s.hp.requestQueue.tail
        ∧ outbox t = outbox (afterLooks during w) ++ [⟨0x83#8, f.tag, p⟩]
        ∧ OnlyChanges [.tx] (afterLooks during w) t
        ∧ StatusShows (fun i => lookedAt i during w) p
        ∧ (during = [] →
            outbox t = outbox s ++ [⟨0x83#8, f.tag, p⟩] ∧ OnlyChanges [.tx, .requests] s t ∧ StatusShows (fun _ => s) p))
  ∧ (∀ (s : State) (i : StatusItem), lookedAt i [] s = s ∧ afterLooks [] s = s)
  ∧ (∀ (s : State) (before : List StatusItem) (e : OwnerEvent) (rest : List (List StatusItem × OwnerEvent)),
      ∃ u, exec (eventCommand e) s = .next u
        ∧ afterLooks ((before, e) :: rest) s = afterLooks rest u
        ∧ ∀ i, lookedAt i ((before, e) :: rest) s = if i ∈ before then s else lookedAt i rest u)

/-- PARAM GET: OK with the number and the value for one of the ten, PARAM_UNKNOWN with the number and 0 for any other; in
STANDBY the writable parameters read 0 (R164, R165). -/
def Obligations.ParamGetReply : Prop :=
  ∀ (s : State) (f : HostFrame) (n : Nat), Handed .paramGet f s → n = u8At f.payload 0 →
    ∃ t, exec .paramGet s = .next t ∧ OnlyChanges [.tx, .requests] s t
      ∧ (∀ v, (n, v) ∈ [(0x01, s.hp.params.splitPeriodUs), (0x02, s.hp.params.linkTimeoutMs),
                        (0x03, s.hp.params.demandTimeoutMs), (0x04, s.hp.params.reportInterval),
                        (0x05, s.hp.params.hostErrorLimit), (0x06, s.hp.params.armWindowMs),
                        (0x07, s.hp.params.noticesEnable), (0x08, s.hp.params.linkRecoverFrames),
                        (0x10, 0x00D2), (0x11, 1)] →
          Answered f .ok (u8 n ++ u16 v) s t)
      ∧ (n ∉ [0x01, 0x02, 0x03, 0x04, 0x05, 0x06, 0x07, 0x08, 0x10, 0x11] →
          Answered f .paramUnknown (u8 n ++ u16 0) s t)
      ∧ (StandbyHoldsResetValues s → s.hp.part = .standby → 1 ≤ n → n ≤ 8 → Answered f .ok (u8 n ++ u16 0) s t)

/-- PARAM SET: its four checks in order, and the parameter written; a write of HOST_ERROR_LIMIT judges HOST_LINK afresh, and its
record follows (R143, R146, R156, R164). That the request holds the number at offset 0 and the value at offset 1 is the model's
reading (log 32). That the FAULT NOTICE of such a change enters the transmit queue before the reply is the model's reading,
since R161 gives both orders (log 23). -/
def Obligations.ParamSetWrites : Prop :=
  ∀ (s : State) (f : HostFrame) (n v : Nat), Handed .paramSet f s → n = u8At f.payload 0 → v = u16At f.payload 1 →
    ∃ t, exec .paramSet s = .next t
      ∧ (n ∉ [0x01, 0x02, 0x03, 0x04, 0x05, 0x06, 0x07, 0x08, 0x10, 0x11] →
          Answered f .paramUnknown (u8 n ++ u16 0) s t ∧ OnlyChanges [.tx, .requests] s t)
      ∧ (n = 0x10 → Answered f .readOnly (u8 n ++ u16 0x00D2) s t ∧ OnlyChanges [.tx, .requests] s t)
      ∧ (n = 0x11 → Answered f .readOnly (u8 n ++ u16 1) s t ∧ OnlyChanges [.tx, .requests] s t)
      ∧ (∀ held, (n, held) ∈ [(0x01, s.hp.params.splitPeriodUs), (0x02, s.hp.params.linkTimeoutMs),
                              (0x08, s.hp.params.linkRecoverFrames)] →
          Answered f .state (u8 n ++ u16 held) s t ∧ OnlyChanges [.tx, .requests] s t)
      ∧ (∀ (held : Nat) (ok : Bool) (p' : Params),
          (n, held, ok, p') ∈
            [(0x03, s.hp.params.demandTimeoutMs, decide (10 ≤ v ∧ v ≤ 2000), { s.hp.params with demandTimeoutMs := v }),
             (0x04, s.hp.params.reportInterval, decide (v ≤ 1000), { s.hp.params with reportInterval := v }),
             (0x05, s.hp.params.hostErrorLimit, decide (v = 2 ∨ v = 4 ∨ v = 8), { s.hp.params with hostErrorLimit := v }),
             (0x06, s.hp.params.armWindowMs, decide (10 ≤ v ∧ v ≤ 500), { s.hp.params with armWindowMs := v }),
             (0x07, s.hp.params.noticesEnable, decide (v ≤ 1), { s.hp.params with noticesEnable := v })] →
          (ok = false → Answered f .range (u8 n ++ u16 held) s t ∧ OnlyChanges [.tx, .requests] s t)
          ∧ (ok = true → t.hp.params = p' ∧ AnsweredAfterNotices f .ok (u8 n ++ u16 v) s t
              ∧ (n ≠ 0x05 → OnlyChanges [.params, .tx, .requests] s t)
              ∧ (n = 0x05 → t.hp.hostLinkLive = decide (v ≤ s.hp.badFrames)
                  ∧ (t.hp.hostLinkLive ≠ s.hp.hostLinkLive → LiveTaken .hostLink t.hp.hostLinkLive s t)
                  ∧ (t.hp.hostLinkLive = s.hp.hostLinkLive → OnlyFaults [] s t)
                  ∧ OnlyFaults [.hostLink] s t
                  ∧ OnlyChanges [.params, .hostLink, .fu, .tx, .skips, .requests] s t)))

/-- SYNC: BUSY while one is pending; otherwise it becomes pending with its TAG and the number of the next period, and no reply
follows yet (R166). -/
def Obligations.SyncBecomesPending : Prop :=
  ∀ (s : State) (f : HostFrame), Handed .sync f s →
    ∃ t, exec .sync s = .next t
      ∧ (s.hp.pendingSync.isSome = true → Answered f .busy [0#8, 0#8, 0#8, 0#8] s t ∧ OnlyChanges [.tx, .requests] s t)
      ∧ (s.hp.pendingSync = none →
          t.hp.pendingSync = some ⟨f.tag, (s.se.periodNumber + 1) % 2 ^ 32⟩
            ∧ t.hp.requestQueue = s.hp.requestQueue.tail ∧ OnlyChanges [.syncPending, .requests] s t)

/-! ### Demand Intake -/

/-- DEMAND: refused STATE in STANDBY, RANGE where its torque or its rear load lies outside its range, DUPLICATE where its seq
is the last accepted; a refusal changes nothing but the duplicate counter. Otherwise it is accepted: the count advances, the
record is pending, an overwritten one is counted, and the optional fields are stored where their flags are set
(R29 to R32, R172). -/
def Obligations.DemandRefusedOrAccepted : Prop :=
  ∀ (s : State) (f : HostFrame) (seq : Byte) (torque speed : Int) (load : Nat) (hasSpeed hasLoad : Bool),
    seq = byteAt f.payload 0 → torque = i16At f.payload 1 → speed = i16At f.payload 4 → load = u16At f.payload 6 →
    hasSpeed = (u8At f.payload 3).testBit 0 → hasLoad = (u8At f.payload 3).testBit 1 →
    (AtHead f s → f.kind = RequestKind.demand.code → f.payload.length = 8 → s.hp.part = .standby →
        ∃ t, exec .demand s = .next t ∧ Answered f .state [0#8, 0#8] s t ∧ OnlyChanges [.tx, .requests] s t)
    ∧ (Handed .demand f s →
        (torque < -16000 ∨ 16000 < torque ∨ (hasLoad = true ∧ 1000 < load) →
          ∃ t, exec .demand s = .next t ∧ Answered f .range (u16 s.di.acceptedCount) s t
            ∧ OnlyChanges [.tx, .requests] s t)
        ∧ (-16000 ≤ torque → torque ≤ 16000 → (hasLoad = true → load ≤ 1000) → s.di.lastSeq = some seq →
          ∃ t, exec .demand s = .next t ∧ Answered f .duplicate (u16 s.di.acceptedCount) s t
            ∧ t.di = { s.di with duplicates := min (s.di.duplicates + 1) 65535 }
            ∧ OnlyChanges [.di, .tx, .requests] s t)
        ∧ (-16000 ≤ torque → torque ≤ 16000 → (hasLoad = true → load ≤ 1000) → s.di.lastSeq ≠ some seq →
          ∃ t n, exec .demand s = .next t ∧ n = (if s.di.acceptedCount = 65535 then 1 else s.di.acceptedCount + 1)
            ∧ Answered f .ok (u16 n) s t
            ∧ t.di = { s.di with
                        acceptedCount := n
                        pending := some ⟨n, torque⟩
                        overwrites := if s.di.pending.isSome then min (s.di.overwrites + 1) 65535 else s.di.overwrites
                        lastSeq := some seq
                        refSpeed := if hasSpeed then speed else s.di.refSpeed
                        refSpeedKnown := s.di.refSpeedKnown || hasSpeed
                        rearLoad := if hasLoad then load else s.di.rearLoad
                        rearLoadKnown := s.di.rearLoadKnown || hasLoad }
            ∧ OnlyChanges [.di, .tx, .requests] s t))

/-- The order of accepted numbers: a number is later than a mark where counting forward from the mark, from 65535 on to 1,
reaches it in 1 to 32767 steps; every nonzero number is later than 0, and 0 is later than none (R28). -/
def Obligations.AcceptedNumbersAreOrdered : Prop :=
  ∀ n mark : Nat, n ≤ 65535 → mark ≤ 65535 →
    (laterThan n mark = true ↔
      n ≠ 0 ∧ (mark = 0 ∨ ∃ k, 1 ≤ k ∧ k ≤ 32767 ∧ (mark + k = n ∨ mark + k = n + 65535)))

/-! ### The Cap Table -/

/-- CAP POST: its checks in order RANGE, PROTECTED, FULL; a FULL signals the event CAP_FULL and changes no entry: the fault is
latched and counted, and a FAULT NOTICE with its code, class and count is offered: sent, or skipped and counted where the port
is busy, if CAP_FULL was not latched, is not masked, and notices are enabled. A post that is taken replaces the entries whose
keys it names in place and adds the others at the end, FRONT first, all or nothing, with the limit, the period number and the
expiry (R42, R46 to R50, R142, R143, R146, R161, R172). That the notice enters the transmit queue before the reply FULL is the
model's reading, since R161 gives both orders (log 23). -/
def Obligations.CapPostTakenOrRefused : Prop :=
  ∀ (s : State) (f : HostFrame) (src axle dir limit expiry : Nat),
    Handed .capPost f s → src = u8At f.payload 0 → axle = u8At f.payload 1 → dir = u8At f.payload 2 →
    limit = u16At f.payload 3 → expiry = u16At f.payload 5 →
    ∃ t, exec .capPost s = .next t
      ∧ (7 < src ∨ 2 < axle ∨ 1 < dir ∨ 8000 < limit ∨ 60000 < expiry →
          Answered f .range (u8 s.ct.pool.length) s t ∧ OnlyChanges [.tx, .requests] s t)
      ∧ (src ≤ 3 → axle ≤ 2 → dir ≤ 1 → limit ≤ 8000 → expiry ≤ 60000 →
          Answered f .guarded (u8 s.ct.pool.length) s t ∧ OnlyChanges [.tx, .requests] s t)
      ∧ (∀ (h : HostSource) (axles : List Axle) (d : Direction), src = hostSourceCode h →
          (axle, axles) ∈ [(0, [Axle.front]), (1, [Axle.rear]), (2, [Axle.front, .rear])] → dir = dirCode d →
          limit ≤ 8000 → expiry ≤ 60000 →
          ∀ absent, absent = axles.filter
              (fun x => !(s.ct.pool.any fun e => decide (e.source = h ∧ e.axle = x ∧ e.dir = d))) →
            (12 < s.ct.pool.length + absent.length →
              t.ct.pool = s.ct.pool ∧ AnsweredAfterNotices f .full (u8 s.ct.pool.length) s t
                ∧ EventTaken .capFull s t ∧ OnlyFaults [.capFull] s t
                ∧ OnlyChanges [.fu, .tx, .skips, .requests] s t)
            ∧ (s.ct.pool.length + absent.length ≤ 12 →
              t.ct.pool = (s.ct.pool.map fun e =>
                    if e.source = h ∧ e.axle ∈ axles ∧ e.dir = d then
                      { e with limit := limit, posted := s.se.periodNumber,
                               remaining := if expiry = 0 then none else some expiry }
                    else e)
                  ++ absent.map (fun x => { source := h, axle := x, dir := d, limit := limit, posted := s.se.periodNumber,
                                            remaining := if expiry = 0 then none else some expiry })
                ∧ Answered f .ok (u8 (s.ct.pool.length + absent.length)) s t
                ∧ OnlyChanges [.pool, .tx, .requests] s t))

/-- CAP WITHDRAW and CAP WITHDRAW SOURCE: their checks in order; the entries named leave the pool and the others keep their
order; WITHDRAW SOURCE TRACK empties the TRACK slots of both axles and ends their conditions, whose faults stay latched with
their counts (R45, R46, R55, R56, R143). -/
def Obligations.CapWithdrawals : Prop :=
  (∀ (s : State) (f : HostFrame) (src axle dir : Nat),
      Handed .capWithdraw f s → src = u8At f.payload 0 → axle = u8At f.payload 1 → dir = u8At f.payload 2 →
      ∃ t, exec .capWithdraw s = .next t
        ∧ (7 < src ∨ 1 < axle ∨ 1 < dir →
            Answered f .range (u8 s.ct.pool.length) s t ∧ OnlyChanges [.tx, .requests] s t)
        ∧ (src ≤ 3 → axle ≤ 1 → dir ≤ 1 →
            Answered f .guarded (u8 s.ct.pool.length) s t ∧ OnlyChanges [.tx, .requests] s t)
        ∧ (∀ (h : HostSource) (x : Axle) (d : Direction),
            src = hostSourceCode h → axle = axleCode x → dir = dirCode d →
            ((∀ e ∈ s.ct.pool, ¬(e.source = h ∧ e.axle = x ∧ e.dir = d)) →
              Answered f .notFound (u8 s.ct.pool.length) s t ∧ OnlyChanges [.tx, .requests] s t)
            ∧ ((∃ e ∈ s.ct.pool, e.source = h ∧ e.axle = x ∧ e.dir = d) →
              t.ct.pool = s.ct.pool.filter (fun e => !decide (e.source = h ∧ e.axle = x ∧ e.dir = d))
                ∧ Answered f .ok (u8 t.ct.pool.length) s t ∧ OnlyChanges [.pool, .tx, .requests] s t)))
  ∧ (∀ (s : State) (f : HostFrame) (src : Nat), Handed .capWithdrawSource f s → src = u8At f.payload 0 →
      ∃ t, exec .capWithdrawSource s = .next t
        ∧ (7 < src → Answered f .range (u8 0 ++ u8 s.ct.pool.length) s t ∧ OnlyChanges [.tx, .requests] s t)
        ∧ (src ≤ 2 → Answered f .guarded (u8 0 ++ u8 s.ct.pool.length) s t ∧ OnlyChanges [.tx, .requests] s t)
        ∧ (∀ h : HostSource, src = hostSourceCode h →
            t.ct.pool = s.ct.pool.filter (fun e => decide (e.source ≠ h))
              ∧ Answered f .ok (u8 (s.ct.pool.length - t.ct.pool.length) ++ u8 t.ct.pool.length) s t
              ∧ OnlyChanges [.pool, .tx, .requests] s t)
        ∧ (src = 3 →
            (∀ x d, t.ct.slots.get .track x d = none)
              ∧ (∀ src' x d, src' ≠ .track → t.ct.slots.get src' x d = s.ct.slots.get src' x d)
              ∧ (∀ x, (∃ d, (s.ct.slots.get .track x d).isSome = true) → LiveTaken (trackFault x) false s t)
              ∧ (∀ x, (∀ d, s.ct.slots.get .track x d = none) → faultRecord (trackFault x) t = faultRecord (trackFault x) s)
              ∧ OnlyFaults [.trackF, .trackR] s t
              ∧ Answered f .ok (u8 ([(Axle.front, Direction.drive), (.front, .regen), (.rear, .drive), (.rear, .regen)].filter
                    fun k => (s.ct.slots.get .track k.1 k.2).isSome).length ++ u8 s.ct.pool.length) s t
              ∧ OnlyChanges [.slots, .fu, .tx, .requests] s t))

/-- CAP LIST: OK with the total, the number of entries returned, and up to eight entries from the start index on; the
occupied internal slots stand first in the order of R43, then the host pool in posting order (R43, R57, R172). -/
def Obligations.CapListPages : Prop :=
  ∀ (s : State) (f : HostFrame) (all page : List (List Byte)), Handed .capList f s →
    all = (slotOrder.filter fun k => (s.ct.slots.get k.1 k.2.1 k.2.2).isSome).map
            (fun k => listEntry k.1.code k.2.1 k.2.2 (((s.ct.slots.get k.1 k.2.1 k.2.2).map CapSlot.limit).getD 0)
              (((s.ct.slots.get k.1 k.2.1 k.2.2).map CapSlot.posted).getD 0) 0)
          ++ s.ct.pool.map (fun e => listEntry (hostSourceCode e.source) e.axle e.dir e.limit e.posted (e.remaining.getD 0)) →
    page = (all.drop (u8At f.payload 0)).take 8 →
    ∃ t, exec .capList s = .next t
      ∧ Answered f .ok (u8 all.length ++ u8 page.length ++ page.flatten) s t ∧ OnlyChanges [.tx, .requests] s t

/-! ### The Profile Table -/

/-- The checks of a PROFILE WRITE in order, each with its result and field number; PROFILE CHECK gives the same, and neither a
refused write nor a check changes anything; a check that passes answers OK with the revision as it stands
(R65, R66, R69, R70, R72, R73). -/
def Obligations.ProfileWriteAndCheckRefusals : Prop :=
  ∀ (k : RequestKind) (s : State) (f : HostFrame) (mask bits : Nat) (merged : Option Profile → Profile),
    k = .profileWrite ∨ k = .profileCheck → Handed k f s → mask = u32At f.payload 1 →
    bits = ((List.range 32).filter fun n => mask.testBit n).length →
    (∀ held, merged held = mergedProfile held mask (readValues f.payload bits)) →
    (7 < u8At f.payload 0 →
        ∃ t, exec k.command s = .next t ∧ Answered f .range (u8 255 ++ u16 0) s t ∧ OnlyChanges [.tx, .requests] s t)
    ∧ (∀ (n : Fin 8) (slot : ProfileSlot), n.val = u8At f.payload 0 → slot = s.pt.slots.get n →
        ∀ (r : ResultCode) (field : Nat),
          ((n = 0 ∧ r = .guarded ∧ field = 255)
            ∨ (n ≠ 0 ∧ n = s.pt.active ∧ r = .busy ∧ field = 255)
            ∨ (n ≠ 0 ∧ n ≠ s.pt.active
                ∧ ((mask.testBit 30 = true ∧ r = .fieldUnknown ∧ field = 30)
                  ∨ (mask.testBit 30 = false ∧ mask.testBit 31 = true ∧ r = .fieldUnknown ∧ field = 31)
                  ∨ (mask.testBit 30 = false ∧ mask.testBit 31 = false
                      ∧ ((f.payload.length ≠ 5 + 2 * bits ∧ r = .length ∧ field = 255)
                        ∨ (f.payload.length = 5 + 2 * bits
                            ∧ ((slot.profile = none ∧ field < 30 ∧ mask.testBit field = false
                                  ∧ (∀ m, m < field → mask.testBit m = true) ∧ r = .incomplete)
                              ∨ ((slot.profile.isSome = true ∨ ∀ m, m < 30 → mask.testBit m = true)
                                  ∧ field < 30 ∧ (merged slot.profile).fieldInRange field = false
                                  ∧ (∀ m, m < field → (merged slot.profile).fieldInRange m = true)
                                  ∧ r = .range)
                              ∨ (k = .profileCheck
                                  ∧ (slot.profile.isSome = true ∨ ∀ m, m < 30 → mask.testBit m = true)
                                  ∧ (∀ m, m < 30 → (merged slot.profile).fieldInRange m = true)
                                  ∧ r = .ok ∧ field = 255)))))))) →
          ∃ t, exec k.command s = .next t ∧ Answered f r (u8 field ++ u16 slot.revision) s t
            ∧ OnlyChanges [.tx, .requests] s t)

/-- A PROFILE WRITE that passes the checks: each field the mask names takes its value, the others stay, the slot is VALID with
its revision one higher, wrapping after 65535; every other slot stays (R66, R70, R71). -/
def Obligations.ProfileWriteTaken : Prop :=
  ∀ (s : State) (f : HostFrame) (n : Fin 8) (mask bits : Nat), Handed .profileWrite f s →
    n.val = u8At f.payload 0 → n ≠ 0 → n ≠ s.pt.active → mask = u32At f.payload 1 → mask < 2 ^ 30 →
    bits = ((List.range 32).filter fun m => mask.testBit m).length → f.payload.length = 5 + 2 * bits →
    ((s.pt.slots.get n).profile.isSome = true ∨ mask = 2 ^ 30 - 1) →
    (∀ m, m < 30 →
      (mergedProfile (s.pt.slots.get n).profile mask (readValues f.payload bits)).fieldInRange m = true) →
    ∃ t p, exec .profileWrite s = .next t
      ∧ (∀ m, m < 30 → p.toList.getD m 0
          = if mask.testBit m then u16At f.payload (5 + 2 * ((List.range m).filter fun j => mask.testBit j).length)
            else (((s.pt.slots.get n).profile.map Profile.toList).getD []).getD m 0)
      ∧ t.pt.slots.get n = { profile := some p, revision := ((s.pt.slots.get n).revision + 1) % 65536 }
      ∧ (∀ m, m ≠ n → t.pt.slots.get m = s.pt.slots.get m)
      ∧ t.pt = { s.pt with slots := t.pt.slots }
      ∧ Answered f .ok (u8 255 ++ u16 (((s.pt.slots.get n).revision + 1) % 65536)) s t
      ∧ OnlyChanges [.pt, .tx, .requests] s t

/-- PROFILE READ: RANGE for a slot above 7, FIELD_UNKNOWN for bit 30 or 31; otherwise OK with the slot's state, its revision
and, for a VALID slot, the values named, in ascending order (R69, R74, R160). -/
def Obligations.ProfileReadReply : Prop :=
  ∀ (s : State) (f : HostFrame) (mask : Nat), Handed .profileRead f s → mask = u32At f.payload 1 →
    ∃ t, exec .profileRead s = .next t ∧ OnlyChanges [.tx, .requests] s t
      ∧ (7 < u8At f.payload 0 → Answered f .range [255#8, 0#8, 0#8, 0#8] s t)
      ∧ (∀ n : Fin 8, n.val = u8At f.payload 0 →
          (mask.testBit 30 = true → Answered f .fieldUnknown [30#8, 0#8, 0#8, 0#8] s t)
          ∧ (mask.testBit 30 = false → mask.testBit 31 = true → Answered f .fieldUnknown [31#8, 0#8, 0#8, 0#8] s t)
          ∧ (mask.testBit 30 = false → mask.testBit 31 = false →
              ((s.pt.slots.get n).profile = none →
                Answered f .ok ([255#8, 0#8] ++ u16 (s.pt.slots.get n).revision) s t)
              ∧ (∀ p, (s.pt.slots.get n).profile = some p →
                Answered f .ok ([255#8, 1#8] ++ u16 (s.pt.slots.get n).revision
                  ++ ((List.range 30).filter fun m => mask.testBit m).flatMap fun m => u16 (p.toList.getD m 0)) s t)))

/-- PROFILE SELECT: EMPTY slots are refused, a select of the active slot with no blend changes nothing, and any other select
makes the target active and starts a blend from the last-used shares over its blend_periods; the reply names the slot active
before (R69, R75, R76, R78, R81). -/
def Obligations.ProfileSelectStartsBlend : Prop :=
  ∀ (s : State) (f : HostFrame), Handed .profileSelect f s →
    ∃ t, exec .profileSelect s = .next t
      ∧ (7 < u8At f.payload 0 → Answered f .range (u8 s.pt.active.val) s t ∧ OnlyChanges [.tx, .requests] s t)
      ∧ (∀ n : Fin 8, n.val = u8At f.payload 0 →
          ((s.pt.slots.get n).profile = none →
            Answered f .empty (u8 s.pt.active.val) s t ∧ OnlyChanges [.tx, .requests] s t)
          ∧ (∀ p, (s.pt.slots.get n).profile = some p → n = s.pt.active → s.pt.blendRunning = false →
            Answered f .ok (u8 s.pt.active.val) s t ∧ OnlyChanges [.tx, .requests] s t)
          ∧ (∀ p, (s.pt.slots.get n).profile = some p → (n ≠ s.pt.active ∨ s.pt.blendRunning = true) →
            Answered f .ok (u8 s.pt.active.val) s t ∧ OnlyChanges [.pt, .tx, .requests] s t
              ∧ t.pt = { s.pt with active := n, startDrive := s.pt.lastDrive, startRegen := s.pt.lastRegen, blendStep := 0,
                                   blendLength := p.blendPeriods, blendRunning := decide (1 ≤ p.blendPeriods) }))

/-! ### Link requests -/

/-- LINK QUERY: RANGE for another axle; otherwise the forty bytes of R172 after the result code. The query releases the notice
slot and empties a finished outbound slot (R122, R125, R160, R172; log 19). -/
def Obligations.LinkQueryReply : Prop :=
  ∀ (s : State) (f : HostFrame), Handed .linkQuery f s →
    ∃ t, exec .linkQuery s = .next t
      ∧ (1 < u8At f.payload 0 → Answered f .range (List.replicate 40 0#8) s t ∧ OnlyChanges [.tx, .requests] s t)
      ∧ (∀ (x : Axle) (l : AxleLink), u8At f.payload 0 = axleCode x → l = s.link.get x →
          ∃ p, t.hp.requestQueue = s.hp.requestQueue.tail ∧ outbox t = outbox s ++ [⟨0xB0#8, f.tag, p⟩]
            ∧ p.length = 41 ∧ u8At p 0 = 0
            ∧ u8At p 1 = (if l.acceptedSinceReady then 1 else 0) ∧ u8At p 2 = l.state.code ∧ u8At p 3 = l.recovery % 256
            ∧ (∀ q e, l.lastStarted = some q → l.ring.find? (fun e => decide (e.seq = q)) = some e →
                byteAt p 4 = q ∧ u32At p 5 = e.period % 2 ^ 32)
            ∧ (l.lastStarted = none → u8At p 4 = 0 ∧ u32At p 5 = 0)
            ∧ (∀ r, l.lastStatus = some r → byteAt p 9 = r.flags ∧ u16At p 12 = r.availDrive % 2 ^ 16
                ∧ u16At p 14 = r.availRegen % 2 ^ 16
                ∧ (-32768 ≤ r.torque → r.torque ≤ 32767 → i16At p 10 = r.torque)
                ∧ (-32768 ≤ r.speed → r.speed ≤ 32767 → i16At p 16 = r.speed))
            ∧ (l.lastStatus = none → ∀ i, 9 ≤ i → i ≤ 17 → u8At p i = 0)
            ∧ (∀ c a, l.notice = some (c, a) → u8At p 18 = 1 ∧ byteAt p 19 = c ∧ u16At p 20 = a % 2 ^ 16)
            ∧ (l.notice = none → ∀ i, 18 ≤ i → i ≤ 21 → u8At p i = 0)
            ∧ u8At p 22 = l.service.state.code ∧ byteAt p 23 = l.service.code ∧ u8At p 24 = l.service.sentCount % 256
            ∧ u16At p 25 = l.counters.framesSent % 2 ^ 16 ∧ u16At p 27 = l.counters.framesAccepted % 2 ^ 16
            ∧ u16At p 29 = l.counters.badFrames % 2 ^ 16 ∧ u16At p 31 = l.counters.replaced % 2 ^ 16
            ∧ u16At p 33 = l.counters.staleEchoes % 2 ^ 16 ∧ u16At p 35 = l.counters.noticesLost % 2 ^ 16
            ∧ u16At p 37 = l.counters.breaks % 2 ^ 16 ∧ u16At p 39 = l.counters.serviceTimeouts % 2 ^ 16
            ∧ (∀ c a, l.notice = some (c, a) → (t.link.get x).notice = none ∧ (t.link.get x).ackCode = some c
                ∧ (t.link.get x).lostNotice = none)
            ∧ (l.notice = none → (t.link.get x).notice = none ∧ (t.link.get x).ackCode = l.ackCode
                ∧ (t.link.get x).lostNotice = l.lostNotice)
            ∧ (l.service.state = .done ∨ l.service.state = .timedOut → (t.link.get x).service.state = .empty)
            ∧ (l.service.state ≠ .done → l.service.state ≠ .timedOut → (t.link.get x).service = l.service)
            ∧ OnlyChanges [.notices x, .service x, .tx, .requests] s t)

/-- LINK POST: refused STATE in STANDBY, RANGE for another axle or a code of 0, BUSY while the slot is QUEUED or SENT;
otherwise the slot is QUEUED with the code and argument and sent count 0, whatever outcome it held (R123, R160). That the request
holds the axle, the code and the argument at offsets 0, 1 and 2 is the model's reading (log 32). -/
def Obligations.LinkPostQueues : Prop :=
  ∀ (s : State) (f : HostFrame),
    (AtHead f s → f.kind = RequestKind.linkPost.code → f.payload.length = 4 → s.hp.part = .standby →
        ∃ t, exec .linkPost s = .next t ∧ Answered f .state [] s t ∧ OnlyChanges [.tx, .requests] s t)
    ∧ (Handed .linkPost f s →
        ∃ t, exec .linkPost s = .next t
          ∧ (1 < u8At f.payload 0 → Answered f .range [] s t ∧ OnlyChanges [.tx, .requests] s t)
          ∧ (∀ x, u8At f.payload 0 = axleCode x →
              (byteAt f.payload 1 = 0 → Answered f .range [] s t ∧ OnlyChanges [.tx, .requests] s t)
              ∧ (byteAt f.payload 1 ≠ 0 → (s.link.get x).service.state = .queued ∨ (s.link.get x).service.state = .sent →
                  Answered f .busy [] s t ∧ OnlyChanges [.tx, .requests] s t)
              ∧ (byteAt f.payload 1 ≠ 0 → (s.link.get x).service.state ≠ .queued →
                  (s.link.get x).service.state ≠ .sent →
                  Answered f .ok [] s t ∧ OnlyChanges [.service x, .tx, .requests] s t
                    ∧ (t.link.get x).service
                        = { state := .queued, code := byteAt f.payload 1, argument := u16At f.payload 2,
                            sentCount := 0 })))

/-! ### Output Control -/

/-- ARM: the first of the six conditions that fails is the number of a STATE refusal, which changes nothing; where all hold,
OC is ARMING with the arm mark, the window started and the outcome none (R130). -/
def Obligations.ArmConditions : Prop :=
  ∀ (s : State) (f : HostFrame),
    (AtHead f s → f.kind = RequestKind.arm.code → f.payload.length = 0 → s.hp.part = .standby →
        ∃ t, exec .arm s = .next t ∧ Answered f .state [1#8] s t ∧ OnlyChanges [.tx, .requests] s t)
    ∧ (Handed .arm f s →
        ∃ t, exec .arm s = .next t
          ∧ (∀ n : Nat,
              (n = 2 ∧ s.oc.state ≠ .disarmed)
                ∨ (s.oc.state = .disarmed
                    ∧ ((n = 3 ∧ s.link.front.state ≠ .synced)
                      ∨ (s.link.front.state = .synced
                          ∧ ((n = 4 ∧ s.link.rear.state ≠ .synced)
                            ∨ (s.link.rear.state = .synced
                                ∧ ((n = 5 ∧ ∃ c, (faultRecord c s).test = true)
                                  ∨ ((∀ c, (faultRecord c s).test = false)
                                      ∧ n = 6 ∧ ∃ c, c.forcing = true ∧ (faultRecord c s).live = true)))))) →
              Answered f .state (u8 n) s t ∧ OnlyChanges [.tx, .requests] s t)
          ∧ (s.oc.state = .disarmed → s.link.front.state = .synced → s.link.rear.state = .synced →
              (∀ c, (faultRecord c s).test = false) →
              (∀ c, c.forcing = true → (faultRecord c s).live = false) →
              Answered f .ok [0#8] s t ∧ OnlyChanges [.oc, .tx, .requests] s t
                ∧ t.oc = { s.oc with state := .arming, armMark := s.di.acceptedCount,
                                     armWindow := some s.hp.params.armWindowMs, lastOutcome := .none })))

/-- DISARM: refused STATE in TRIPPED; from ARMED and ARMING OC is DISARMED and both links drop their waiting frame, and from
ARMED the enable lines fall and the monitors are set back; in DISARMED it changes nothing (R95, R100, R109, R128, R129, R135,
R143). That no period take falls between the monitors' withdrawals is the model's choice (log 39). -/
def Obligations.DisarmStopsTorque : Prop :=
  ∀ (s : State) (f : HostFrame), Handed .disarm f s →
    ∃ t, exec .disarm s = .next t
      ∧ (s.oc.state = .tripped → Answered f .state [] s t ∧ OnlyChanges [.tx, .requests] s t)
      ∧ (s.oc.state = .disarmed → Answered f .ok [] s t ∧ OnlyChanges [.tx, .requests] s t)
      ∧ (s.oc.state = .arming → Answered f .ok [] s t
          ∧ t.oc = { s.oc with state := .disarmed, armWindow := none, lastOutcome := .disarm }
          ∧ (∀ x, t.link.get x = { s.link.get x with waiting := none })
          ∧ OnlyChanges [.oc, .line .front, .line .rear, .tx, .requests] s t)
      ∧ (s.oc.state = .armed → Answered f .ok [] s t
          ∧ t.oc = { s.oc with state := .disarmed, enF := false, enR := false }
          ∧ (∀ x, t.link.get x = { s.link.get x with waiting := none })
          ∧ (∀ x, t.sm.get x = { SlipMonitor.reset with monitored := (s.sm.get x).monitored })
          ∧ (∀ x, t.tm.get x = { run := 0 })
          ∧ (∀ x d, (s.sm.get x).cap.isSome = true → (s.sm.get x).counting = some d →
              t.ct.slots.get .slip x d = none)
          ∧ (∀ src x d, src ≠ .slip ∨ (s.sm.get x).cap = none ∨ (s.sm.get x).counting ≠ some d →
              t.ct.slots.get src x d = s.ct.slots.get src x d)
          ∧ (∀ x, (s.sm.get x).live = true → LiveTaken (slipFault x) false s t)
          ∧ (∀ x, (s.sm.get x).live = false → faultRecord (slipFault x) t = faultRecord (slipFault x) s)
          ∧ OnlyFaults [.slipF, .slipR] s t
          ∧ OnlyChanges [.oc, .line .front, .line .rear, .sm .front, .sm .rear, .tm .front, .tm .rear, .slots, .fu, .tx,
                         .requests] s t)

/-- TORQUE OFF trips with cause HOST from every state but TRIPPED, and both links cut their frame and send the torque-off break;
from ARMED the monitors are set back too, with their SLIP entries and conditions. CLEAR TRIP leaves TRIPPED for DISARMED where
no FORCING condition is present, and is otherwise refused with the lowest such code (R95, R100, R110, R129, R136, R137, R138).
That no period take falls between the monitors' withdrawals is the model's choice (log 39). -/
def Obligations.TorqueOffAndClearTrip : Prop :=
  (∀ (s : State) (f : HostFrame), Handed .torqueOff f s →
      ∃ t, exec .torqueOff s = .next t
        ∧ (∀ r, s.oc.state = .tripped → s.oc.tripRecord = some r →
            Answered f .ok (u8 r.cause.code ++ u32 r.period) s t ∧ OnlyChanges [.tx, .requests] s t)
        ∧ (s.oc.state = .tripped → s.oc.tripRecord = none →
            Answered f .ok [0#8, 0#8, 0#8, 0#8, 0#8] s t ∧ OnlyChanges [.tx, .requests] s t)
        ∧ (s.oc.state ≠ .tripped →
            Answered f .ok ([0xFF#8] ++ u32 s.se.periodNumber) s t
              ∧ t.oc = { s.oc with
                          state := .tripped
                          tripRecord := some ⟨.host, s.se.periodNumber⟩
                          armWindow := if s.oc.state = .arming then none else s.oc.armWindow
                          lastOutcome := if s.oc.state = .arming then .trip else s.oc.lastOutcome
                          enF := if s.oc.state = .armed then false else s.oc.enF
                          enR := if s.oc.state = .armed then false else s.oc.enR }
              ∧ (∀ x, t.link.get x = { s.link.get x with inFlight := none, txBits := 0, waiting := none,
                                                         breakSending := true })
              ∧ (s.oc.state ≠ .armed → OnlyChanges [.oc, .line .front, .line .rear, .tx, .requests] s t)
              ∧ (s.oc.state = .armed →
                  (∀ x, t.sm.get x = { SlipMonitor.reset with monitored := (s.sm.get x).monitored })
                  ∧ (∀ x, t.tm.get x = { run := 0 })
                  ∧ (∀ x d, (s.sm.get x).cap.isSome = true → (s.sm.get x).counting = some d →
                      t.ct.slots.get .slip x d = none)
                  ∧ (∀ src x d, src ≠ .slip ∨ (s.sm.get x).cap = none ∨ (s.sm.get x).counting ≠ some d →
                      t.ct.slots.get src x d = s.ct.slots.get src x d)
                  ∧ (∀ x, (s.sm.get x).live = true → LiveTaken (slipFault x) false s t)
                  ∧ (∀ x, (s.sm.get x).live = false → faultRecord (slipFault x) t = faultRecord (slipFault x) s)
                  ∧ OnlyFaults [.slipF, .slipR] s t
                  ∧ OnlyChanges [.oc, .line .front, .line .rear, .sm .front, .sm .rear, .tm .front, .tm .rear, .slots,
                                 .fu, .tx, .requests] s t)))
  ∧ (∀ (s : State) (f : HostFrame), Handed .clearTrip f s →
      ∃ t, exec .clearTrip s = .next t
        ∧ (s.oc.state ≠ .tripped → Answered f .state [0#8] s t ∧ OnlyChanges [.tx, .requests] s t)
        ∧ (∀ c : FaultCode, s.oc.state = .tripped → c.forcing = true → (faultRecord c s).present = true →
            (∀ d : FaultCode, d.forcing = true → d.code < c.code → (faultRecord d s).present = false) →
            Answered f .state (u8 c.code) s t ∧ OnlyChanges [.tx, .requests] s t)
        ∧ (s.oc.state = .tripped → (∀ c, c.forcing = true → (faultRecord c s).present = false) →
            Answered f .ok [0#8] s t ∧ t.oc = { s.oc with state := .disarmed }
              ∧ OnlyChanges [.oc, .tx, .requests] s t))

/-! ### The Fault Unit -/

/-- FAULT READ returns the fifteen records as they stood, clears latched where the condition is absent and, where asked, every
count; FAULT MASK takes the mask set, but refuses bit 15; both set ATTN afresh (R141, R145, R147, R149, R172). -/
def Obligations.FaultReadAndMask : Prop :=
  (∀ (s : State) (f : HostFrame), Handed .faultRead f s →
      ∃ t p, exec .faultRead s = .next t
        ∧ t.hp.requestQueue = s.hp.requestQueue.tail ∧ outbox t = outbox s ++ [⟨0xC0#8, f.tag, p⟩]
        ∧ p.length = 31 ∧ u8At p 0 = 0
        ∧ (∀ c : FaultCode,
            (u8At p (2 * c.code - 1)).testBit 0 = (faultRecord c s).live
              ∧ (u8At p (2 * c.code - 1)).testBit 1 = (faultRecord c s).test
              ∧ (u8At p (2 * c.code - 1)).testBit 2 = (faultRecord c s).latched
              ∧ (u8At p (2 * c.code - 1)).testBit 3 = (faultRecord c s).masked
              ∧ u8At p (2 * c.code - 1) < 16
              ∧ u8At p (2 * c.code) = (faultRecord c s).count % 256)
        ∧ (∀ c, faultRecord c t = { faultRecord c s with
              latched := (faultRecord c s).latched && ((faultRecord c s).live || (faultRecord c s).test)
              count := if (u8At f.payload 0).testBit 0 then 0 else (faultRecord c s).count })
        ∧ (t.fu.attn = true ↔ s.hp.part = .standby
            ∨ ∃ c, (faultRecord c t).latched = true ∧ (faultRecord c t).masked = false)
        ∧ OnlyChanges [.fu, .tx, .requests] s t)
  ∧ (∀ (s : State) (f : HostFrame) (set : Nat), Handed .faultMask f s → set = u16At f.payload 0 →
      ∃ t, exec .faultMask s = .next t
        ∧ (set.testBit 15 = true → Answered f .range [0#8, 0#8] s t ∧ OnlyChanges [.tx, .requests] s t)
        ∧ (set.testBit 15 = false →
            Answered f .ok (u16 set) s t
              ∧ (∀ c : FaultCode, faultRecord c t = { faultRecord c s with masked := set.testBit (c.code - 1) })
              ∧ (t.fu.attn = true ↔ ∃ c, (faultRecord c t).latched = true ∧ (faultRecord c t).masked = false)
              ∧ OnlyChanges [.fu, .tx, .requests] s t))

/-- FAULT TEST: refused STATE unless DISARMED, then RANGE for bit 15; otherwise every test field takes its bit, each fault whose
condition becomes present latches and counts, the notices due are offered in order of code, and a FORCING one trips Output
Control with the lowest such code (R143, R144, R145, R146, R150, R161, R172). That the notices enter the transmit queue before
the reply is the model's reading, since R161 gives both orders (log 23). -/
def Obligations.FaultTestAsserts : Prop :=
  ∀ (s : State) (f : HostFrame) (set : Nat), Handed .faultTest f s → set = u16At f.payload 0 →
    ∃ t, exec .faultTest s = .next t
      ∧ (s.oc.state ≠ .disarmed → Answered f .state [0#8, 0#8] s t ∧ OnlyChanges [.tx, .requests] s t)
      ∧ (s.oc.state = .disarmed → set.testBit 15 = true →
          Answered f .range [0#8, 0#8] s t ∧ OnlyChanges [.tx, .requests] s t)
      ∧ (s.oc.state = .disarmed → set.testBit 15 = false →
          AnsweredAfterNotices f .ok (u16 set) s t
            ∧ (∀ (c : FaultCode) (rises : Bool),
                rises = (set.testBit (c.code - 1) && !(faultRecord c s).live && !(faultRecord c s).test) →
                faultRecord c t = { faultRecord c s with
                  test := set.testBit (c.code - 1)
                  latched := (faultRecord c s).latched || rises
                  count := if rises then min ((faultRecord c s).count + 1) 255 else (faultRecord c s).count })
            ∧ ((∀ c : FaultCode, c.forcing = true → set.testBit (c.code - 1) = true →
                  (faultRecord c s).present = true) →
                OnlyChanges [.fu, .tx, .skips, .requests] s t)
            ∧ (∀ c : FaultCode, c.forcing = true → set.testBit (c.code - 1) = true →
                (faultRecord c s).present = false →
                (∀ d : FaultCode, d.forcing = true → d.code < c.code → set.testBit (d.code - 1) = true →
                  (faultRecord d s).present = true) →
                t.oc = { s.oc with state := .tripped, tripRecord := some ⟨.fault c, s.se.periodNumber⟩ }
                  ∧ (∀ x, t.link.get x = { s.link.get x with inFlight := none, txBits := 0, waiting := none,
                                                             breakSending := true })
                  ∧ OnlyChanges [.fu, .oc, .line .front, .line .rear, .tx, .skips, .requests] s t))

/-! ### The period operation -/

/-- An expiry of the period timer begins an operation with the next period number. Stage 1: the pending demand becomes
current with age 0, or the current one ages; the held demand follows hold and decay; both Slip Monitors take its sign
(R3, R5, R34, R35, R36, R86). -/
def Obligations.PeriodTakesDemand : Prop :=
  ∀ (s : State) (p : Profile), PeriodDue s → (s.pt.slots.get s.pt.active).profile = some p →
    ∃ t w, exec (.periodExpiry .demand) s = .next t
      ∧ t.se = { s.se with periodNumber := (s.se.periodNumber + 1) % 2 ^ 32, timerUs := 0, work := some w }
      ∧ w.done = 1 ∧ w.held = t.di.prevHeld
      ∧ (t.di.current = none → w.accepted = 0) ∧ (∀ r, t.di.current = some r → w.accepted = r.number)
      ∧ t.di = { s.di with pending := none, current := t.di.current, staleSignalled := t.di.staleSignalled,
                           prevHeld := t.di.prevHeld }
      ∧ (∀ r, s.di.pending = some r → t.di.current = some ⟨r.number, r.torque, 0⟩)
      ∧ (s.di.pending = none →
          (∀ r, s.di.current = some r → t.di.current = some { r with age := min (r.age + 1) 65535 })
          ∧ (s.di.current = none → t.di.current = none))
      ∧ (t.di.current = none → t.di.prevHeld = 0)
      ∧ (∀ r, t.di.current = some r →
          (r.age ≤ p.demandHold → t.di.prevHeld = r.torque)
          ∧ (p.demandHold < r.age →
              (0 < s.di.prevHeld → t.di.prevHeld = max 0 (s.di.prevHeld - p.decayStep))
              ∧ (s.di.prevHeld < 0 → t.di.prevHeld = min 0 (s.di.prevHeld + p.decayStep))
              ∧ (s.di.prevHeld = 0 → t.di.prevHeld = 0)))
      ∧ (∀ x, (t.sm.get x).monitored = Int.sign t.di.prevHeld)
      ∧ OnlyFaults [.demandStale, .slipF, .slipR] s t ∧ NoticesSent [] s t
      ∧ OnlyChanges [.se, .di, .sm .front, .sm .rear, .slots, .fu, .tx, .skips, .free] s t

/-- The monitored direction at a Slip Monitor: 0 or the counting direction changes only the record of it, the first direction is
taken, and a change of direction ends the judging in the old one. Where the Cap Table takes stage 4's take before the axle's
withdrawal, the old direction's entry is in this period's caps and absent afterwards; where it takes the withdrawal first,
whatever the other axle's, it is not in them; the new direction's cap is the same (R86, R94, R96, R143; that one command holds
the orders as an operand is the model's choice, log 31). -/
def Obligations.DirectionChangeEndsSlip : Prop :=
  ∀ (s : State) (x : Axle) (m : SlipMonitor), PeriodDue s → m = s.sm.get x →
    ∃ t, exec (.periodExpiry .demand) s = .next t
      ∧ (t.di.prevHeld = 0 → t.sm.get x = { m with monitored := 0 })
      ∧ (∀ (sign : Int) (d : Direction),
          (0 < t.di.prevHeld ∧ sign = 1 ∧ d = .drive) ∨ (t.di.prevHeld < 0 ∧ sign = -1 ∧ d = .regen) →
          (m.counting = none ∨ m.counting = some d → t.sm.get x = { m with monitored := sign, counting := some d })
          ∧ (∀ old, m.counting = some old → old ≠ d →
              (m.state = .idle → t.sm.get x = { m with monitored := sign, counting := some d })
              ∧ (m.state = .grip → t.sm.get x = { m with monitored := sign, counting := some d, run := 0 })
              ∧ (m.state = .slip ∨ m.state = .recover →
                  t.sm.get x = { state := .grip, monitored := sign, counting := some d, run := 0, cap := none,
                                 live := false }
                  ∧ t.ct.slots.get .slip x old = none ∧ LiveTaken (slipFault x) false s t)
              ∧ (m.state = .idle ∨ m.state = .grip → faultRecord (slipFault x) t = faultRecord (slipFault x) s)
              ∧ (∀ (v : CapSlot) (o : SlipOrder), m.state = .slip ∨ m.state = .recover →
                  s.ct.slots.get .slip x old = some v →
                  ∃ early late w w', exec (.periodExpiry .caps .beforeTake) s = .next early ∧ early.se.work = some w
                    ∧ exec (.periodExpiry .caps o) s = .next late ∧ late.se.work = some w'
                    ∧ (o = .afterTake ∨ (o = .frontAfterTake ∧ x = .front) ∨ (o = .rearAfterTake ∧ x = .rear) →
                        (w'.caps.get x).get old = min ((w.caps.get x).get old) v.limit)
                    ∧ (o = .beforeTake ∨ (o = .frontAfterTake ∧ x = .rear) ∨ (o = .rearAfterTake ∧ x = .front) →
                        (w'.caps.get x).get old = (w.caps.get x).get old)
                    ∧ (w'.caps.get x).get d = (w.caps.get x).get d
                    ∧ early.ct.slots.get .slip x old = none ∧ late.ct.slots.get .slip x old = none)))

/-- DEMAND_STALE: an ARMED part whose current record reaches the stale limit, unmarked, latches and counts the event at stage 1,
and by the end of the operation OC is TRIPPED with that cause, whichever stage takes the trip first; otherwise stage 1 leaves
the fault's record alone. The notice due is offered at stage 1 (R37, R38, R39, R143, R144, R146; the stage is a free value, log
5). -/
def Obligations.StaleDemandTrips : Prop :=
  (∀ (s : State) (r : CurrentDemand), PeriodDue s → s.hp.part = .ready → s.oc.state = .armed →
      s.di.pending = none → s.di.current = some r → s.di.staleSignalled = false → 0 < s.hp.params.splitPeriodUs →
      s.hp.params.demandTimeoutMs * 1000 ≤ min (r.age + 1) 65535 * s.hp.params.splitPeriodUs →
      (∃ t, exec (.periodExpiry .demand) s = .next t ∧ t.di.staleSignalled = true
        ∧ EventTaken .demandStale s t ∧ NoticesSent [] s t)
      ∧ (∃ t, exec (.periodExpiry .report) s = .next t
        ∧ t.oc.state = .tripped ∧ t.oc.enF = false ∧ t.oc.enR = false
        ∧ t.oc.tripRecord = some ⟨.fault .demandStale, (s.se.periodNumber + 1) % 2 ^ 32⟩
        ∧ ∀ x, (t.link.get x).breakSending = true ∧ (t.link.get x).inFlight = none))
  ∧ (∀ s : State, PeriodDue s → 0 < s.hp.params.splitPeriodUs →
      ∃ t, exec (.periodExpiry .demand) s = .next t
        ∧ (s.oc.state ≠ .armed ∨ (s.di.pending = none ∧ s.di.staleSignalled = true) ∨ t.di.current = none
            ∨ (∃ r, t.di.current = some r
                ∧ r.age * s.hp.params.splitPeriodUs < s.hp.params.demandTimeoutMs * 1000) →
            faultRecord .demandStale t = faultRecord .demandStale s))

/-- Stage 2: the demand notice arms an ARMING part where the accepted number is later than the arm mark; the state then read
is the period's, and the effective demand is the held demand in ARMED and 0 otherwise (R6, R128, R132). -/
def Obligations.PeriodReadsOutputState : Prop :=
  ∀ (s : State) (w : PeriodWork), Standing 1 w s →
    ∃ t, exec (.periodExpiry .outputState) s = .next t
      ∧ (s.oc.state = .arming → laterThan w.accepted s.oc.armMark = true →
          t.oc = { s.oc with state := .armed, armWindow := none, lastOutcome := .armed, enF := true, enR := true })
      ∧ (s.oc.state ≠ .arming ∨ laterThan w.accepted s.oc.armMark = false → t.oc = s.oc)
      ∧ t.se = { s.se with work := some { w with done := 2, periodOc := t.oc.state,
                                                 demand := if t.oc.state = .armed then w.held else 0 } }
      ∧ OnlyChanges [.se, .oc] s t

/-- Stages 3 and 4: the target shares from the profile and the rear load, one step of a running blend, the share of the
demand's direction; and the four effective caps, each the least of the profile limit and the limits of all entries for its
axle and direction (R7, R8, R59, R67, R68, R79, R80). -/
def Obligations.PeriodTakesSharesAndCaps : Prop :=
  ∀ (s : State) (w : PeriodWork) (p : Profile), Standing 2 w s → SharesInRange s →
    (s.pt.slots.get s.pt.active).profile = some p →
    ∃ t w' target, exec (.periodExpiry .caps) s = .next t
      ∧ t.se = { s.se with work := some w' } ∧ OnlyChanges [.se, .pt] s t
      ∧ (s.di.rearLoadKnown = false → target = p.baseShare)
      ∧ (s.di.rearLoadKnown = true → s.di.rearLoad ≤ 400 → target = p.map0)
      ∧ (s.di.rearLoadKnown = true → 800 ≤ s.di.rearLoad → target = p.map8)
      ∧ (∀ i g, s.di.rearLoadKnown = true → s.di.rearLoad = 400 + 50 * i + g → 0 < 50 * i + g → i < 8 → g < 50 →
          (target : Int) = (p.toList.getD (21 + i) 0 : Nat)
            + Int.tdiv (((p.toList.getD (22 + i) 0 : Nat) - (p.toList.getD (21 + i) 0 : Nat) : Int) * g) 50)
      ∧ (s.pt.blendRunning = false → t.pt = { s.pt with lastDrive := target, lastRegen := p.regenShare }
          ∧ w'.blendRemaining = 0)
      ∧ (s.pt.blendRunning = true →
          t.pt = { s.pt with blendStep := s.pt.blendStep + 1,
                             blendRunning := decide (s.pt.blendStep + 1 < s.pt.blendLength),
                             lastDrive := t.pt.lastDrive, lastRegen := t.pt.lastRegen }
          ∧ (t.pt.lastDrive : Int) = s.pt.startDrive
              + Int.tdiv (((target : Int) - s.pt.startDrive) * (s.pt.blendStep + 1 : Nat)) s.pt.blendLength
          ∧ (t.pt.lastRegen : Int) = s.pt.startRegen
              + Int.tdiv (((p.regenShare : Int) - s.pt.startRegen) * (s.pt.blendStep + 1 : Nat)) s.pt.blendLength
          ∧ w'.blendRemaining = s.pt.blendLength - (s.pt.blendStep + 1))
      ∧ w'.done = 4 ∧ w'.demand = w.demand ∧ w'.held = w.held ∧ w'.periodOc = w.periodOc
      ∧ w'.share = (if w.demand < 0 then t.pt.lastRegen else t.pt.lastDrive) ∧ w'.share ≤ 1000
      ∧ w'.activeSlot = s.pt.active.val ∧ w'.transfer = p.transfer ∧ w'.slewStep = p.slewStep
      ∧ w'.shortfallThreshold = p.shortfallThreshold ∧ w'.shortfallCount = p.shortfallCount
      ∧ (∀ (x : Axle) (d : Direction) (limit : Nat),
          (x, d, limit) ∈ [(Axle.front, Direction.drive, p.driveLimitFront), (.rear, .drive, p.driveLimitRear),
                           (.front, .regen, p.regenLimitFront), (.rear, .regen, p.regenLimitRear)] →
          (w'.caps.get x).get d ≤ limit
          ∧ (∀ src v, s.ct.slots.get src x d = some v → (w'.caps.get x).get d ≤ v.limit)
          ∧ (∀ e ∈ s.ct.pool, e.axle = x → e.dir = d → (w'.caps.get x).get d ≤ e.limit)
          ∧ ((w'.caps.get x).get d = limit
              ∨ (∃ src v, s.ct.slots.get src x d = some v ∧ (w'.caps.get x).get d = v.limit)
              ∨ ∃ e ∈ s.ct.pool, e.axle = x ∧ e.dir = d ∧ (w'.caps.get x).get d = e.limit))

/-- Stages 5 to 9: split, clamp, transfer, slew and shortfall. The commands and the shortfall sum to the effective demand, no
part, target or command exceeds its bound or has the other sign, and both commands are 0 where the demand is
(R9 to R14). -/
def Obligations.PeriodSplitsDemand : Prop :=
  ∀ (s : State) (w : PeriodWork) (capF capR : Nat), Standing 4 w s → w.share ≤ 1000 →
    capF = (if w.demand < 0 then w.caps.front.regen else w.caps.front.drive) →
    capR = (if w.demand < 0 then w.caps.rear.regen else w.caps.rear.drive) →
    ∃ t parts clamped targets outputs shortfall, exec (.periodExpiry .shortfall) s = .next t
      ∧ t = { s with se := { s.se with work := some { w with
                done := 9, parts := parts, clamped := clamped, targets := targets, outputs := outputs,
                shortfall := shortfall } } }
      ∧ parts.front = Int.tdiv (w.demand * w.share) 1000 ∧ parts.front + parts.rear = w.demand
      ∧ (∀ x, (parts.get x).natAbs ≤ w.demand.natAbs ∧ 0 ≤ parts.get x * w.demand
          ∧ 0 ≤ (parts.get x - clamped.get x) * w.demand)
      ∧ (w.share = 0 → parts.rear = w.demand) ∧ (w.share = 1000 → parts.front = w.demand)
      ∧ clamped.front = Int.sign parts.front * min (parts.front.natAbs : Int) capF
      ∧ clamped.rear = Int.sign parts.rear * min (parts.rear.natAbs : Int) capR
      ∧ (w.transfer ≠ 1 → targets = clamped)
      ∧ (w.transfer = 1 →
          (parts.front = clamped.front → parts.rear = clamped.rear → targets = clamped)
          ∧ (parts.front ≠ clamped.front → parts.rear ≠ clamped.rear → targets = clamped)
          ∧ (parts.front ≠ clamped.front → parts.rear = clamped.rear → targets.front = clamped.front
              ∧ targets.rear = clamped.rear + Int.sign w.demand
                  * min ((parts.front - clamped.front).natAbs : Int) (capR - clamped.rear.natAbs))
          ∧ (parts.front = clamped.front → parts.rear ≠ clamped.rear → targets.rear = clamped.rear
              ∧ targets.front = clamped.front + Int.sign w.demand
                  * min ((parts.rear - clamped.rear).natAbs : Int) (capF - clamped.front.natAbs)))
      ∧ targets.front.natAbs ≤ capF ∧ targets.rear.natAbs ≤ capR
      ∧ (∀ x, 0 ≤ targets.get x * w.demand ∧ (outputs.get x).natAbs ≤ (targets.get x).natAbs
          ∧ 0 ≤ outputs.get x * targets.get x)
      ∧ (∀ (x : Axle) (out target prev : Int), out = outputs.get x → target = targets.get x →
          prev = (match x with | .front => s.se.prevFront | .rear => s.se.prevRear) →
          (target = 0 → out = 0)
          ∧ (target ≠ 0 → (prev = 0 ∨ Int.sign target ≠ Int.sign prev) →
              out = Int.sign target * min (target.natAbs : Int) w.slewStep)
          ∧ (target ≠ 0 → prev ≠ 0 → Int.sign target = Int.sign prev → prev.natAbs < target.natAbs →
              out = Int.sign target * min (target.natAbs : Int) (prev.natAbs + w.slewStep))
          ∧ (target ≠ 0 → prev ≠ 0 → Int.sign target = Int.sign prev → target.natAbs ≤ prev.natAbs → out = target))
      ∧ outputs.front + outputs.rear + shortfall = w.demand
      ∧ 0 ≤ shortfall * w.demand ∧ shortfall.natAbs ≤ w.demand.natAbs
      ∧ outputs.front.natAbs ≤ capF ∧ outputs.rear.natAbs ≤ capR
      ∧ 0 ≤ outputs.front * w.demand ∧ 0 ≤ outputs.rear * w.demand
      ∧ (w.demand = 0 → outputs.front = 0 ∧ outputs.rear = 0)
      ∧ (capF ≤ 8000 → capR ≤ 8000 → ∀ x, -8000 ≤ outputs.get x ∧ outputs.get x ≤ 8000)

/-- Stage 10: each link forms a frame with the next seq, enters it in its ring of four after the last three entries, and starts
it on a free line or lets it wait on a busy one; a frame starts with its enable flag set only while OC is ARMED, and carries the
service and the acknowledgement that stand (R15, R16, R102, R105, R106, R107, R124, R175). An older entry changes only where its
seq is that of a frame whose enable flag is cleared, which no run reaches. -/
def Obligations.PeriodIssuesCommands : Prop :=
  ∀ (s : State) (w : PeriodWork), Standing 9 w s →
    ∃ t, exec (.periodExpiry .issue) s = .next t
      ∧ t.se = { s.se with prevFront := w.outputs.front, prevRear := w.outputs.rear, work := some { w with done := 10 } }
      ∧ OnlyChanges [.se, .line .front, .line .rear, .seq .front, .seq .rear, .service .front, .service .rear,
                     .counters .front, .counters .rear] s t
      ∧ ∀ (x : Axle) (l l' : AxleLink), l = s.link.get x → l' = t.link.get x →
          l'.frameSeq = l.frameSeq + 1 ∧ l'.ring.length = min (l.ring.length + 1) 4
          ∧ l'.breakSending = l.breakSending
          ∧ (l.inFlight.isSome = true ∨ l.breakSending = true →
              l'.inFlight = l.inFlight ∧ l'.lastStarted = l.lastStarted ∧ l'.service = l.service
              ∧ l'.waiting = some { seq := l.frameSeq + 1, enable := decide (w.periodOc = .armed),
                                    torque := w.outputs.get x, driveLimit := (w.caps.get x).drive,
                                    regenLimit := (w.caps.get x).regen, period := s.se.periodNumber }
              ∧ l'.ring = (l.ring ++ [RingEntry.mk (l.frameSeq + 1) (w.outputs.get x) (decide (w.periodOc = .armed))
                                        s.se.periodNumber]).drop (l.ring.length - 3)
              ∧ l'.counters = { l.counters with
                  replaced := if l.waiting.isSome then min (l.counters.replaced + 1) 65535 else l.counters.replaced })
          ∧ (l.inFlight = none → l.breakSending = false →
              ∃ g, l'.inFlight = some g ∧ l'.waiting = l.waiting ∧ l'.lastStarted = some (l.frameSeq + 1)
                ∧ g.seq = l.frameSeq + 1
                ∧ g.enable = decide (w.periodOc = .armed ∧ s.oc.state = .armed)
                ∧ g.torque = (if w.periodOc = .armed ∧ s.oc.state ≠ .armed then 0 else w.outputs.get x)
                ∧ g.driveLimit = (w.caps.get x).drive ∧ g.regenLimit = (w.caps.get x).regen
                ∧ g.ack = l.ackCode ∧ g.crc = crc16 g.covered
                ∧ l'.ring.getLast? = some ⟨l.frameSeq + 1, g.torque, g.enable, s.se.periodNumber⟩
                ∧ l'.ring = ((l.ring.drop (l.ring.length - 3)).map fun e =>
                      if e.seq = l.frameSeq + 1 ∧ w.periodOc = .armed ∧ s.oc.state ≠ .armed then
                        { e with torque := 0, enable := false } else e)
                    ++ [RingEntry.mk (l.frameSeq + 1) g.torque g.enable s.se.periodNumber]
                ∧ ((∀ e ∈ l.ring, e.seq ≠ l.frameSeq + 1) → l'.ring.dropLast = l.ring.drop (l.ring.length - 3))
                ∧ l'.counters = { l.counters with
                    framesSent := min (l.counters.framesSent + 1) 65535
                    serviceTimeouts := if l.service.state = .sent ∧ 16 ≤ l.service.sentCount then
                      min (l.counters.serviceTimeouts + 1) 65535 else l.counters.serviceTimeouts }
                ∧ (l.service.state = .queued → g.service = some (l.service.code, l.service.argument)
                    ∧ l'.service = { l.service with state := .sent, sentCount := 1 })
                ∧ (l.service.state = .sent → l.service.sentCount < 16 →
                    g.service = some (l.service.code, l.service.argument)
                    ∧ l'.service = { l.service with sentCount := l.service.sentCount + 1 })
                ∧ (l.service.state = .sent → 16 ≤ l.service.sentCount → g.service = none
                    ∧ l'.service = { l.service with state := .timedOut })
                ∧ (l.service.state = .empty ∨ l.service.state = .done ∨ l.service.state = .timedOut →
                    g.service = none ∧ l'.service = l.service))

/-- Stages 11 and 12: the shortfall run count and the SHORTFALL condition, whose record latches and counts as it becomes
present, with the notice that is due; the report count, a SPLIT REPORT offered at the interval and admitted only to an empty
port, and the reply to a SYNC that awaits this period; then the operation ends (R18 to R22, R143, R146, R161, R166, R172). That
no SPLIT REPORT and no notice is admitted once a RESET has been taken is the model's reading of R167 (log 11). -/
def Obligations.PeriodMonitorsAndReports : Prop :=
  (∀ (s : State) (w : PeriodWork) (run : Nat), Standing 10 w s →
      run = (if w.shortfallThreshold < w.shortfall.natAbs then min (s.se.shortfallRun + 1) 65535 else 0) →
      ∃ t, exec (.periodExpiry .monitor) s = .next t
        ∧ t.se = { s.se with shortfallRun := run, shortfallLive := decide (w.shortfallCount ≤ run),
                             work := some { w with done := 11 } }
        ∧ (decide (w.shortfallCount ≤ run) = s.se.shortfallLive → OnlyChanges [.se] s t)
        ∧ (decide (w.shortfallCount ≤ run) ≠ s.se.shortfallLive →
            LiveTaken .shortfall (decide (w.shortfallCount ≤ run)) s t ∧ OnlyFaults [.shortfall] s t
              ∧ NoticesSent [] s t ∧ OnlyChanges [.se, .fu, .tx, .skips] s t))
  ∧ (∀ (s : State) (w : PeriodWork) (interval capF capR : Nat) (offered admitted : Bool), Standing 11 w s →
      interval = s.hp.params.reportInterval →
      offered = decide (interval ≠ 0 ∧ interval ≤ s.se.reportCount + 1) →
      admitted = (offered && s.hp.txQueue.isEmpty && s.hp.sending.isNone && !s.hp.resetTaken) →
      capF = (if w.demand < 0 then w.caps.front.regen else w.caps.front.drive) →
      capR = (if w.demand < 0 then w.caps.rear.regen else w.caps.rear.drive) →
      ∃ t, exec (.periodExpiry .report) s = .next t
        ∧ t.se = { s.se with work := none,
                             reportCount := if interval = 0 ∨ offered = true then 0 else s.se.reportCount + 1 }
        ∧ outbox t = outbox s
            ++ (if admitted then
                  [⟨0xE0#8, 0, u32 s.se.periodNumber ++ i16 w.demand ++ u16 w.share ++ u16 capF ++ u16 capR
                    ++ i16 w.outputs.front ++ i16 w.outputs.rear ++ i16 w.shortfall
                    ++ u8 w.periodOc.code ++ u8 s.sm.front.state.code ++ u8 s.sm.rear.state.code
                    ++ u8 s.link.front.state.code ++ u8 s.link.rear.state.code
                    ++ u8 w.activeSlot ++ u8 w.blendRemaining⟩]
                else [])
            ++ (match s.hp.pendingSync with
                | some y => if y.awaited = s.se.periodNumber then
                    ([⟨0x86#8, y.tag, [0x00#8] ++ u32 s.se.periodNumber⟩] : List HostFrame) else []
                | none => [])
        ∧ t.hp.reportSkips = (if offered = true ∧ admitted = false then min (s.hp.reportSkips + 1) 65535
                              else s.hp.reportSkips)
        ∧ (∀ y, s.hp.pendingSync = some y →
            t.hp.pendingSync = if y.awaited = s.se.periodNumber then none else some y)
        ∧ (s.hp.pendingSync = none → t.hp.pendingSync = none) ∧ t.hp.noticeSkips = s.hp.noticeSkips
        ∧ OnlyChanges [.se, .tx, .skips, .syncPending] s t)

/-- A period operation begins at an expiry of the running timer and completes; one in progress completes, and keeps its number.
While REFCLK is absent none begins and none completes, and a pending SYNC waits; without the timer none begins (R2, R3, R4, R25,
R166). That a PERIOD_EXPIRY which finds an operation in progress continues it and begins none (log 28), and that an operation in
progress as REFCLK stops is completed there and then, before REFCLK is absent (log 40), is the model's choice. -/
def Obligations.PeriodOperationCompletes : Prop :=
  (∀ s : State, PeriodDue s →
      ∃ t, exec (.periodExpiry .report) s = .next t ∧ t.se.work = none
        ∧ t.se.periodNumber = (s.se.periodNumber + 1) % 2 ^ 32)
  ∧ (∀ (s : State) (w : PeriodWork), Clocked s → s.se.work = some w →
      ∃ t, exec (.periodExpiry .report) s = .next t ∧ t.se.work = none ∧ t.se.periodNumber = s.se.periodNumber)
  ∧ (∀ (s : State) (w : PeriodWork) (m : Measures), Clocked s → s.se.work = some w →
      ∃ u t, exec (.periodExpiry .report) s = .next u ∧ exec (.refclkStops m) s = .next t
        ∧ t.se.work = none ∧ t.se.periodNumber = s.se.periodNumber ∧ t.tb.refclk = false
        ∧ t.hp.pendingSync = u.hp.pendingSync ∧ outbox t = outbox u)
  ∧ (∀ (s : State) (through : Stage) (slip : SlipOrder), s.tb.refclk = false →
      exec (.periodExpiry through slip) s = .next s)
  ∧ (∀ (s : State) (through : Stage) (slip : SlipOrder), s.se.work = none → s.se.timerRunning = false →
      exec (.periodExpiry through slip) s = .next s)

/-! ### Timers -/

/-- A host entry leaves the pool, and ARMING ends with outcome WINDOW, at the expiry of the 1 ms timer at which the remaining
time reaches 0; an entry or a window with more time stays, and with REFCLK absent nothing expires (R51, R52, R53, R133). That
the command stands for that expiry of the 1 ms timer and changes nothing where more than 1 ms is left (log 4), and that
ARM_WINDOW_EXPIRY changes nothing outside ARMING (log 2), is the model's choice. -/
def Obligations.HostEntryAndArmWindowExpiry : Prop :=
  (∀ (s : State) (h : HostSource) (x : Axle) (d : Direction), Clocked s →
      ∃ t, exec (.hostEntryExpiry h x d) s = .next t
        ∧ t.ct.pool = s.ct.pool.filter
            (fun e => !decide (e.source = h ∧ e.axle = x ∧ e.dir = d ∧ (e.remaining = some 0 ∨ e.remaining = some 1)))
        ∧ OnlyChanges [.pool] s t)
  ∧ (∀ s : State, Clocked s → s.oc.state = .arming → s.oc.armWindow = some 0 ∨ s.oc.armWindow = some 1 →
      ∃ t, exec .armWindowExpiry s = .next t
        ∧ t.oc = { s.oc with state := .disarmed, armWindow := none, lastOutcome := .window }
        ∧ OnlyChanges [.oc] s t)
  ∧ (∀ s : State, s.oc.state ≠ .arming → exec .armWindowExpiry s = .next s)
  ∧ (∀ (s : State) (n : Nat), s.oc.armWindow = some n → 1 < n → exec .armWindowExpiry s = .next s)
  ∧ (∀ (s : State) (h : HostSource) (x : Axle) (d : Direction), s.tb.refclk = false →
      exec (.hostEntryExpiry h x d) s = .next s ∧ exec .armWindowExpiry s = .next s
        ∧ exec (.linkTimerExpiry x) s = .next s)

/-- A link timer that expires takes the link to LOST with recovery count 0 and the timer stopped: LINK entries of limit 0 are
posted unless they stand, LINK_x_LOST becomes live, latching and counting, with the notice that is due, ARMING ends where the
link was SYNCED, and the second link out makes NO_AXLE live, which trips the part (R115, R118, R119, R120, R134, R136, R143,
R146). A period take before the two LINK posts sees neither, and one between them the DRIVE post alone (R44, R60). That the
command stands for the expiry of the 1 ms timer at which the link timer reaches 0 and changes nothing where more is left (log 4)
or where the timer is stopped (log 2), and that its operand says what is taken between its claims (log 31) and the DRIVE claim
comes before the REGEN claim (log 33), is the model's choice. -/
def Obligations.LinkTimerExpiryLosesLink : Prop :=
  ∀ (s : State) (x y : Axle) (l : AxleLink) (otherOut : Bool), y ≠ x → l = s.link.get x →
    otherOut = (match x with | .front => s.out.rearOut | .rear => s.out.frontOut) →
    (l.timer = none ∨ (∃ n, l.timer = some n ∧ 1 < n) ∨ l.state = .off ∨ l.state = .broken →
      exec (.linkTimerExpiry x) s = .next s)
    ∧ (∀ w, Clocked s → l.timer = some 0 ∨ l.timer = some 1 → l.state = .synced ∨ l.state = .hunt → Standing 3 w s →
        (∃ t, exec (.linkTimerExpiry x [(.beforeLink, .period .caps)]) s = .next t ∧ TookCaps w s.ct.slots s t
          ∧ ∀ d, t.ct.slots.get .link x d = some ⟨0, s.se.periodNumber⟩)
        ∧ (∃ t, exec (.linkTimerExpiry x [(.link, .period .caps)]) s = .next t
          ∧ TookCaps w (s.ct.slots.with .link x .drive 0 s.se.periodNumber) s t
          ∧ ∀ d, t.ct.slots.get .link x d = some ⟨0, s.se.periodNumber⟩))
    ∧ (Clocked s → l.timer = some 0 ∨ l.timer = some 1 →
        (l.state = .lost →
          ∃ t, exec (.linkTimerExpiry x) s = .next t ∧ t.link.get x = { l with timer := none, recovery := 0 }
            ∧ OnlyChanges [.sync x] s t)
        ∧ (l.state = .starting ∨ l.state = .synced ∨ l.state = .hunt →
          ∃ t, exec (.linkTimerExpiry x) s = .next t
            ∧ (t.link.get x).state = .lost ∧ (t.link.get x).timer = none ∧ (t.link.get x).recovery = 0
            ∧ LiveTaken (linkLostFault x) true s t
            ∧ (s.out.noAxleLive ≠ otherOut → LiveTaken .noAxle otherOut s t)
            ∧ (s.out.noAxleLive = otherOut → faultRecord .noAxle t = faultRecord .noAxle s)
            ∧ OnlyFaults [linkLostFault x, .noAxle, .slipF, .slipR] s t ∧ NoticesSent [] s t
            ∧ (∀ d, t.ct.slots.get .link x d
                = if l.state = .starting then s.ct.slots.get .link x d else some ⟨0, s.se.periodNumber⟩)
            ∧ (∀ src z d, src ≠ .slip → (src ≠ .link ∨ z ≠ x) →
                t.ct.slots.get src z d = s.ct.slots.get src z d)
            ∧ t.out = (match x with
                | .front => { s.out with frontOut := true, noAxleLive := s.out.rearOut }
                | .rear => { s.out with rearOut := true, noAxleLive := s.out.frontOut })
            ∧ (otherOut = false → s.out.noAxleLive = false →
                t.oc = (if l.state = .synced ∧ s.oc.state = .arming then
                    { s.oc with state := .disarmed, armWindow := none, lastOutcome := .link } else s.oc)
                  ∧ OnlyFaults [linkLostFault x] s t
                  ∧ OnlyChanges [.linkState x, .sync x, .slots, .out, .oc, .fu, .tx, .skips] s t)
            ∧ (otherOut = true → s.out.noAxleLive = false → (faultRecord .noAxle s).present = false →
                s.hp.part = .ready → s.oc.state ≠ .tripped →
                (faultRecord .noAxle t).live = true ∧ t.oc.state = .tripped
                  ∧ t.oc.tripRecord = some ⟨.fault .noAxle, s.se.periodNumber⟩
                  ∧ ∀ z, (t.link.get z).breakSending = true ∧ (t.link.get z).inFlight = none)))

/-! ### The axle lines -/

/-- The frame in flight completes, or the torque-off break ends (that with REFCLK absent as well): the line is free, and a
waiting frame starts at once, with its enable flag only while OC is ARMED. What a software reset left on the line ends
without further effect (R107, R108, R110, R111). The frame carries the service that stands, and the ring entry of one whose
enable flag is cleared takes torque 0 (R106, R124). A trip that a link takes right after the completion finds the line free and
the frame still waiting, and its break discards that frame, which has not started: it is not counted as sent, and its link's
ring, service slot and last frame started stay (R108, R110); so for TORQUE OFF and for the trip of a DEMAND_STALE, with their
trip records (R39, R136, R137). An event that brings the link no break comes after the start of the waiting frame; a
period operation that has not issued gets to stage 9. Which of the two the link takes first is the command's operand (log 37).
That a frame waiting behind a break becomes the frame in flight when the break ends with REFCLK absent is the model's reading
(log 14). -/
def Obligations.LineFreedStartsWaiting : Prop :=
  (∀ (s : State) (x : Axle) (l base : AxleLink) (c : Instr), l = s.link.get x →
      ((Clocked s ∧ l.inFlight.isSome = true ∧ c = .commandFrameComplete x
          ∧ base = { l with inFlight := none, txBits := 0 })
        ∨ (s.resetnLow = false ∧ l.breakSending = true ∧ c = .breakEnd x ∧ base = { l with breakSending := false })) →
      ∃ t, exec c s = .next t
        ∧ (l.waiting = none → t.link.get x = base ∧ OnlyChanges [.line x] s t)
        ∧ (∀ g, l.waiting = some g →
            ∃ h, (t.link.get x).inFlight = some h ∧ (t.link.get x).waiting = none
              ∧ (t.link.get x).breakSending = base.breakSending ∧ (t.link.get x).lastStarted = some g.seq
              ∧ h.seq = g.seq ∧ h.enable = (g.enable && decide (s.oc.state = .armed))
              ∧ h.torque = (if g.enable = true ∧ s.oc.state ≠ .armed then 0 else g.torque)
              ∧ h.driveLimit = g.driveLimit ∧ h.regenLimit = g.regenLimit ∧ h.ack = l.ackCode
              ∧ h.crc = crc16 h.covered
              ∧ (g.enable = false ∨ s.oc.state = .armed → (t.link.get x).ring = l.ring)
              ∧ (g.enable = true → s.oc.state ≠ .armed →
                  (t.link.get x).ring
                    = l.ring.map fun e => if e.seq = g.seq then { e with torque := 0, enable := false } else e)
              ∧ (t.link.get x).frameSeq = l.frameSeq
              ∧ (l.service.state = .queued → h.service = some (l.service.code, l.service.argument)
                  ∧ (t.link.get x).service = { l.service with state := .sent, sentCount := 1 })
              ∧ (l.service.state = .sent → l.service.sentCount < 16 →
                  h.service = some (l.service.code, l.service.argument)
                  ∧ (t.link.get x).service = { l.service with sentCount := l.service.sentCount + 1 })
              ∧ (l.service.state = .sent → 16 ≤ l.service.sentCount → h.service = none
                  ∧ (t.link.get x).service = { l.service with state := .timedOut })
              ∧ (l.service.state = .empty ∨ l.service.state = .done ∨ l.service.state = .timedOut →
                  h.service = none ∧ (t.link.get x).service = l.service)
              ∧ (t.link.get x).counters = { l.counters with
                  framesSent := min (l.counters.framesSent + 1) 65535
                  serviceTimeouts := if l.service.state = .sent ∧ 16 ≤ l.service.sentCount then
                    min (l.counters.serviceTimeouts + 1) 65535 else l.counters.serviceTimeouts }
              ∧ (t.link.get x).counters.framesSent = min (l.counters.framesSent + 1) 65535
              ∧ OnlyChanges [.line x, .seq x, .service x, .counters x] s t))
  ∧ (∀ (s : State) (x : Axle) (f : HostFrame) (both : Bool), Clocked s → (s.link.get x).inFlight.isSome = true →
      Handed .torqueOff f s → s.oc.state ≠ .tripped →
      ∃ t, exec (.commandFrameComplete x (some ⟨.torqueOff, both⟩)) s = .next t
        ∧ Answered f .ok ([0xFF#8] ++ u32 s.se.periodNumber) s t
        ∧ t.oc.state = .tripped ∧ t.oc.tripRecord = some ⟨.host, s.se.periodNumber⟩
        ∧ (∀ z, t.link.get z = { s.link.get z with inFlight := none, txBits := 0, waiting := none, breakSending := true })
        ∧ (s.oc.state ≠ .armed → OnlyChanges [.oc, .line .front, .line .rear, .tx, .requests] s t))
  ∧ (∀ (s u v : State) (x z : Axle) (through : Stage) (slip : SlipOrder) (edges : Nat) (e : TripEvent) (c : Instr),
      Clocked s → (s.link.get x).inFlight.isSome = true →
      u = s.setLink x { s.link.get x with inFlight := none, txBits := 0 } → exec (.commandFrameComplete x) s = .next v →
      ((e, c) ∈ [(TripEvent.torqueOff, Instr.torqueOff), (.faultTest, .faultTest), (.linkTimer z, .linkTimerExpiry z),
                 (.lineLow z, .lineLow90us z), (.windowEnd edges, .clockCheckWindowEnd edges)]
        ∨ (e = .period through slip ∧ c = .periodExpiry through slip
            ∧ (stageNumber through < stageNumber .issue ∨ ∃ w, s.se.work = some w ∧ stageNumber .issue ≤ w.done)
            ∧ ∀ y ∈ [u, v], ∀ r w, exec c y = .next r → r.se.work = some w → w.staleTripAt ≠ some (w.done + 1))) →
      ∃ t, exec c u = .next t
        ∧ exec (.commandFrameComplete x (some ⟨e, false⟩)) s
            = if (t.link.get x).breakSending then .next t else exec c v)
  ∧ (∀ (s t : State) (x : Axle) (through : Stage) (slip : SlipOrder) (w : PeriodWork), Clocked s →
      (s.link.get x).inFlight.isSome = true →
      (stageNumber through < stageNumber .issue ∨ ∃ w, s.se.work = some w ∧ stageNumber .issue ≤ w.done) →
      exec (.periodExpiry through slip) (s.setLink x { s.link.get x with inFlight := none, txBits := 0 }) = .next t →
      t.se.work = some w → w.staleTripAt = some (w.done + 1) → t.hp.part = .ready → t.oc.state ≠ .tripped →
      ∃ r, exec (.commandFrameComplete x (some ⟨.period through slip, false⟩)) s = .next r
        ∧ r.oc.state = .tripped ∧ r.oc.tripRecord = some ⟨.fault .demandStale, t.se.periodNumber⟩
        ∧ r.se = { t.se with work := some { w with staleTripAt := none } }
        ∧ ∀ z, r.link.get z = { t.link.get z with inFlight := none, txBits := 0, waiting := none, breakSending := true })
  ∧ (∀ (s : State) (x : Axle) (through : Stage) (slip : SlipOrder), stageNumber .issue ≤ stageNumber through →
      (∀ w, s.se.work = some w → w.done < stageNumber .issue) →
      exec (.commandFrameComplete x (some ⟨.period through slip, false⟩)) s
        = exec (.commandFrameComplete x (some ⟨.period .shortfall slip, false⟩)) s)
  ∧ (∀ (s : State) (x : Axle) (g : StartedFrame) (bits : Nat) (met : Option MetTrip), Clocked s →
      (s.link.get x).inFlight = none → (s.link.get x).tail = .frame g bits →
      ∃ t, exec (.commandFrameComplete x met) s = .next t ∧ t.link.get x = { s.link.get x with tail := .none }
        ∧ OnlyChanges [.line x] s t)
  ∧ (∀ (s : State) (x : Axle) (met : Option MetTrip), ∃ t, exec (.commandFrameComplete x met) s = .next t)
  ∧ (∀ (s : State) (x : Axle), s.resetnLow = false → (s.link.get x).breakSending = false →
      (s.link.get x).tail = .brk →
      ∃ t, exec (.breakEnd x) s = .next t ∧ t.link.get x = { s.link.get x with tail := .none }
        ∧ OnlyChanges [.line x] s t)

/-- The bytes of a status frame are accepted in every receiving state: the link timer restarts, the record is kept, the INVERTER
entries are posted with at most 8000, and the state follows R114; LINK entries go when recovery completes, and with them what
LOST held: LINK_x_LOST, and the link's place in the out record. The other axle's slots stand. Where one FAULT NOTICE is due, or
none, it is sent or skipped. A period take between two of the frame's claims sees those made before it and not those made after
it (R44, R60, R84, R101, R103, R112 to R114, R118, R119, R120, R143, R146, R170, R173, R174; that the operand says what is taken
between the claims, and that of two claims the DRIVE claim comes first, is the model's choice, log 31, log 33). -/
def Obligations.StatusFrameIsAccepted : Prop :=
  ∀ (s : State) (x : Axle) (f : StatusFrame) (l : AxleLink), Clocked s → l = s.link.get x → l.partialBytes = [] →
    l.state = .synced ∨ l.state = .hunt ∨ l.state = .starting ∨ l.state = .lost →
    -32768 ≤ f.torque → f.torque ≤ 32767 → -32768 ≤ f.speed → f.speed ≤ 32767 →
    f.availDrive < 65536 → f.availRegen < 65536 → f.noticeArg < 65536 →
    ∃ t, exec (.statusFrameAccepted x f.bytes) s = .next t
      ∧ (t.link.get x).timer = some s.hp.params.linkTimeoutMs ∧ (t.link.get x).acceptedSinceReady = true
      ∧ (t.link.get x).badRun = 0 ∧ (t.link.get x).partialBytes = []
      ∧ (t.link.get x).counters.framesAccepted = min (l.counters.framesAccepted + 1) 65535
      ∧ (t.link.get x).lastStatus = some ⟨f.flags, f.torque, f.availDrive, f.availRegen, f.speed⟩
      ∧ t.ct.slots.get .inverter x .drive = some ⟨min f.availDrive 8000, s.se.periodNumber⟩
      ∧ t.ct.slots.get .inverter x .regen = some ⟨min f.availRegen 8000, s.se.periodNumber⟩
      ∧ (l.state = .synced ∨ l.state = .hunt →
          (t.link.get x).state = .synced ∧ (t.link.get x).recovery = l.recovery
          ∧ ∀ d, t.ct.slots.get .link x d = s.ct.slots.get .link x d)
      ∧ (l.state = .starting ∨ l.state = .lost → l.recovery + 1 < s.hp.params.linkRecoverFrames →
          (t.link.get x).state = l.state ∧ (t.link.get x).recovery = l.recovery + 1
          ∧ ∀ d, t.ct.slots.get .link x d = s.ct.slots.get .link x d)
      ∧ (l.state = .starting ∨ l.state = .lost → s.hp.params.linkRecoverFrames ≤ l.recovery + 1 →
          (t.link.get x).state = .synced ∧ (t.link.get x).recovery = 0
          ∧ (∀ d, t.ct.slots.get .link x d = none)
          ∧ (l.state = .lost → LiveTaken (linkLostFault x) false s t
              ∧ (s.out.noAxleLive = true → LiveTaken .noAxle false s t)
              ∧ t.out = (match x with
                  | .front => { s.out with frontOut := false, noAxleLive := false }
                  | .rear => { s.out with rearOut := false, noAxleLive := false })))
      ∧ (∀ src z d, z ≠ x → t.ct.slots.get src z d = s.ct.slots.get src z d)
      ∧ (l.state ≠ .lost ∨ l.recovery + 1 < s.hp.params.linkRecoverFrames →
          faultRecord (linkLostFault x) t = faultRecord (linkLostFault x) s ∧ t.out = s.out)
      ∧ (l.state ≠ .lost ∨ l.recovery + 1 < s.hp.params.linkRecoverFrames ∨ s.out.noAxleLive = false →
          faultRecord .noAxle t = faultRecord .noAxle s)
      ∧ OnlyFaults [linkLostFault x, .noAxle, slipFault x, trackFault x, .noticeLost] s t
      ∧ ((noticesDue s t).length ≤ 1 → NoticesSent [] s t)
      ∧ OnlyChanges [.rx x, .sync x, .linkState x, .record x, .notices x, .service x, .counters x, .out, .slots, .fu, .tx,
                     .skips, .sm x, .tm x] s t
      ∧ (∀ (w : PeriodWork) (drive regen period : Nat) (half both : InternalSlots), Standing 3 w s →
          drive = min f.availDrive 8000 → regen = min f.availRegen 8000 → period = s.se.periodNumber →
          half = s.ct.slots.with .inverter x .drive drive period → both = half.with .inverter x .regen regen period →
          (∃ u, exec (.statusFrameAccepted x f.bytes [(.inverter, .period .caps)]) s = .next u ∧ TookCaps w half s u
            ∧ u.ct.slots.get .inverter x .drive = some ⟨drive, period⟩
            ∧ u.ct.slots.get .inverter x .regen = some ⟨regen, period⟩)
          ∧ (l.state = .synced ∨ l.state = .hunt →
            ∃ u, exec (.statusFrameAccepted x f.bytes [(.handOver, .period .caps)]) s = .next u ∧ TookCaps w both s u)
          ∧ (l.state = .starting ∨ l.state = .lost → s.hp.params.linkRecoverFrames ≤ l.recovery + 1 →
            (∃ u, exec (.statusFrameAccepted x f.bytes [(.beforeLink, .period .caps)]) s = .next u ∧ TookCaps w both s u
              ∧ ∀ d, u.ct.slots.get .link x d = none)
            ∧ (∃ u, exec (.statusFrameAccepted x f.bytes [(.link, .period .caps)]) s = .next u
              ∧ TookCaps w (both.set .link x .drive none) s u ∧ ∀ d, u.ct.slots.get .link x d = none)))

/-- An accepted frame's notice and service echo: the notice is stored, ignored or lost by the first row that applies, the
acknowledged code is cleared where the frame's code differs, and an awaited echo makes the outbound slot DONE (R121, R122, R124,
R126, R143). -/
def Obligations.AcceptedNoticeAndEcho : Prop :=
  ∀ (s : State) (x : Axle) (f : StatusFrame) (l : AxleLink), Clocked s → l = s.link.get x → l.partialBytes = [] →
    l.state = .synced ∨ l.state = .hunt ∨ l.state = .starting ∨ l.state = .lost →
    -32768 ≤ f.torque → f.torque ≤ 32767 → -32768 ≤ f.speed → f.speed ≤ 32767 →
    f.availDrive < 65536 → f.availRegen < 65536 → f.noticeArg < 65536 →
    ∃ t l', exec (.statusFrameAccepted x f.bytes) s = .next t ∧ l' = t.link.get x
      ∧ (l.ackCode = some f.noticeCode → l'.ackCode = l.ackCode) ∧ (l.ackCode ≠ some f.noticeCode → l'.ackCode = none)
      ∧ (f.noticeCode = 0 ∨ l.ackCode = some f.noticeCode ∨ (∃ a, l.notice = some (f.noticeCode, a))
          ∨ (l.notice.isSome = true ∧ l.lostNotice = some f.noticeCode) →
          l'.notice = l.notice ∧ l'.lostNotice = l.lostNotice
            ∧ l'.counters.noticesLost = l.counters.noticesLost
            ∧ faultRecord .noticeLost t = faultRecord .noticeLost s)
      ∧ (f.noticeCode ≠ 0 → l.ackCode ≠ some f.noticeCode → l.notice = none →
          l'.notice = some (f.noticeCode, f.noticeArg) ∧ l'.lostNotice = l.lostNotice
            ∧ l'.counters.noticesLost = l.counters.noticesLost
            ∧ faultRecord .noticeLost t = faultRecord .noticeLost s)
      ∧ (∀ c a, f.noticeCode ≠ 0 → l.ackCode ≠ some f.noticeCode → l.notice = some (c, a) → c ≠ f.noticeCode →
          l.lostNotice ≠ some f.noticeCode →
          l'.notice = l.notice ∧ l'.lostNotice = some f.noticeCode
            ∧ l'.counters.noticesLost = min (l.counters.noticesLost + 1) 65535
            ∧ EventTaken .noticeLost s t)
      ∧ (l.service.state = .sent → l.service.code = f.serviceEcho → l'.service = { l.service with state := .done })
      ∧ (l.service.state ≠ .sent ∨ l.service.code ≠ f.serviceEcho → l'.service = l.service)

/-- A bad frame in SYNCED, by its bytes, by a framing error or by a gap, is counted, and the third in a row takes the link to
HUNT, which posts no cap and ends ARMING. A bad candidate in another state is counted and sets the recovery count of STARTING
and LOST to 0; a gap outside a candidate changes nothing (R112, R113, R119, R126, R134). That a framing error in SYNCED with no
byte held is one bad frame, and that a lone 0x6B outside SYNCED stays held over a cut, is the model's reading (log 16). That no
byte of the bad frame that takes the link to HUNT is kept for the scan there is the model's choice, since R112 and R113 do not
say (log 41). -/
def Obligations.BadStatusFrames : Prop :=
  (∀ (s : State) (x : Axle) (l : AxleLink) (c : Instr), Clocked s → l = s.link.get x → l.state = .synced →
      ((∃ bytes, c = .statusFrameBad x bytes false ∧ l.partialBytes = [] ∧ bytes.length = 18
          ∧ (beginsWithSync bytes = false ∨ statusCrcGood bytes = false))
        ∨ c = .statusFrameBad x [] true
        ∨ (c = .receiveGapCut x ∧ l.partialBytes ≠ [])) →
      ∃ t, exec c s = .next t
        ∧ (t.link.get x).partialBytes = []
        ∧ (t.link.get x).counters = { l.counters with badFrames := min (l.counters.badFrames + 1) 65535 }
        ∧ (l.badRun + 1 < 3 → (t.link.get x).state = .synced ∧ (t.link.get x).badRun = l.badRun + 1 ∧ t.oc = s.oc)
        ∧ (3 ≤ l.badRun + 1 → (t.link.get x).state = .hunt ∧ (t.link.get x).badRun = 0
            ∧ t.oc = (if s.oc.state = .arming then
                { s.oc with state := .disarmed, armWindow := none, lastOutcome := .link } else s.oc))
        ∧ (t.link.get x).timer = l.timer ∧ (t.link.get x).recovery = l.recovery
        ∧ OnlyChanges [.rx x, .sync x, .linkState x, .counters x, .oc] s t)
  ∧ (∀ (s : State) (x : Axle) (l : AxleLink) (c : Instr), Clocked s → l = s.link.get x →
      l.state = .starting ∨ l.state = .hunt ∨ l.state = .lost →
      ((∃ bytes, c = .statusFrameBad x bytes false ∧ l.partialBytes = [] ∧ bytes.length = 18
          ∧ beginsWithSync bytes = true ∧ statusCrcGood bytes = false)
        ∨ (∃ rest, (c = .receiveGapCut x ∨ c = .statusFrameBad x [] true)
            ∧ l.partialBytes = 0x6B#8 :: 0x94#8 :: rest ∧ 0x6B#8 ∉ rest)) →
      ∃ t, exec c s = .next t
        ∧ (t.link.get x).state = l.state
        ∧ (t.link.get x).counters = { l.counters with badFrames := min (l.counters.badFrames + 1) 65535 }
        ∧ (t.link.get x).recovery = (if l.state = .hunt then l.recovery else 0)
        ∧ (t.link.get x).timer = l.timer ∧ (t.link.get x).badRun = l.badRun
        ∧ OnlyChanges [.rx x, .sync x, .counters x] s t)
  ∧ (∀ (s : State) (x : Axle), (s.link.get x).partialBytes = [] ∨
        ((s.link.get x).partialBytes = [0x6B#8] ∧ (s.link.get x).state ≠ .synced) →
      exec (.receiveGapCut x) s = .next s)

/-- A receive line low for 90 µs takes the link to BROKEN from every state but OFF: timer stopped, counts 0, LINK entries posted
unless they stand, LINK_x_BREAK becomes live, latching and counting, with the notice that is due, and the second link out makes
NO_AXLE live, which trips the part; when the line returns high the link is LOST, with LINK_x_LOST live in the place of
LINK_x_BREAK (R104, R116, R118, R119, R120, R136, R143, R146). That a frame still held when the line has been low for 90 µs is
first judged bad (log 18), and that the line's return counts with REFCLK absent as well (log 15), is the model's reading; that
the operand says what is taken between its claims (log 31), and that the DRIVE claim comes first (log 33), is the model's
choice. -/
def Obligations.LowLineBreaksLink : Prop :=
  (∀ (s : State) (x : Axle) (l : AxleLink) (otherOut : Bool), Clocked s → l = s.link.get x →
      otherOut = (match x with | .front => s.out.rearOut | .rear => s.out.frontOut) →
      (l.state = .off ∨ l.state = .broken → exec (.lineLow90us x) s = .next s)
      ∧ (l.state ≠ .off → l.state ≠ .broken →
          ∃ t, exec (.lineLow90us x) s = .next t
            ∧ (t.link.get x).state = .broken ∧ (t.link.get x).timer = none ∧ (t.link.get x).recovery = 0
            ∧ (t.link.get x).badRun = 0 ∧ (t.link.get x).counters.breaks = min (l.counters.breaks + 1) 65535
            ∧ LiveTaken (linkBreakFault x) true s t
            ∧ (l.state = .lost → LiveTaken (linkLostFault x) false s t ∧ t.out = s.out ∧ t.oc = s.oc
                ∧ OnlyFaults [linkLostFault x, linkBreakFault x] s t)
            ∧ (l.state ≠ .lost → OnlyFaults [linkBreakFault x, .noAxle, .slipF, .slipR] s t
                ∧ (s.out.noAxleLive ≠ otherOut → LiveTaken .noAxle otherOut s t)
                ∧ (s.out.noAxleLive = otherOut → faultRecord .noAxle t = faultRecord .noAxle s))
            ∧ NoticesSent [] s t
            ∧ (∀ d, t.ct.slots.get .link x d
                = if l.state = .starting ∨ l.state = .lost then s.ct.slots.get .link x d
                  else some ⟨0, s.se.periodNumber⟩)
            ∧ (otherOut = false → s.out.noAxleLive = false →
                t.oc = (if l.state = .synced ∧ s.oc.state = .arming then
                    { s.oc with state := .disarmed, armWindow := none, lastOutcome := .link } else s.oc)
                  ∧ OnlyFaults [linkLostFault x, linkBreakFault x] s t
                  ∧ OnlyChanges [.rx x, .linkState x, .sync x, .counters x, .slots, .out, .oc, .fu, .tx, .skips] s t)
            ∧ (∀ src z d, src ≠ .slip → (src ≠ .link ∨ z ≠ x) → t.ct.slots.get src z d = s.ct.slots.get src z d)
            ∧ OnlyChanges [.rx x, .linkState x, .sync x, .counters x, .slots, .out, .oc, .fu, .tx, .skips, .line .front,
                           .line .rear, .sm .front, .sm .rear, .tm .front, .tm .rear] s t
            ∧ (l.state ≠ .lost →
                t.out = (match x with
                  | .front => { s.out with frontOut := true, noAxleLive := s.out.rearOut }
                  | .rear => { s.out with rearOut := true, noAxleLive := s.out.frontOut }))
            ∧ (l.state ≠ .lost → otherOut = true → s.out.noAxleLive = false → (faultRecord .noAxle s).present = false →
                s.hp.part = .ready → s.oc.state ≠ .tripped →
                (faultRecord .noAxle t).live = true ∧ t.oc.state = .tripped
                  ∧ t.oc.tripRecord = some ⟨.fault .noAxle, s.se.periodNumber⟩
                  ∧ ∀ z, (t.link.get z).breakSending = true ∧ (t.link.get z).inFlight = none))
      ∧ (∀ w, l.state = .synced ∨ l.state = .hunt → Standing 3 w s →
          ∃ t, exec (.lineLow90us x [(.link, .period .caps)]) s = .next t
            ∧ TookCaps w (s.ct.slots.with .link x .drive 0 s.se.periodNumber) s t
            ∧ ∀ d, t.ct.slots.get .link x d = some ⟨0, s.se.periodNumber⟩))
  ∧ (∀ (s : State) (x : Axle) (l : AxleLink), s.resetnLow = false → l = s.link.get x →
      ∃ t, exec (.receiveLineHigh x) s = .next t ∧ (t.link.get x).lowLineUs = 0
        ∧ (l.state ≠ .broken → t.link.get x = { l with lowLineUs := 0 } ∧ OnlyChanges [.rx x] s t)
        ∧ (l.state = .broken →
            t.link.get x = { l with lowLineUs := 0, state := .lost, recovery := 0 }
              ∧ LiveTaken (linkBreakFault x) false s t ∧ LiveTaken (linkLostFault x) true s t
              ∧ OnlyFaults [linkBreakFault x, linkLostFault x] s t ∧ NoticesSent [] s t
              ∧ OnlyChanges [.rx x, .linkState x, .sync x, .fu, .tx, .skips] s t))

/-! ### The monitors -/

/-- A Slip Monitor judges an accepted frame in its counting direction while OC is ARMED, the speed known, the monitored
direction not 0, and the link SYNCED as the frame leaves it, also by the frame that completes a recovery: it counts excesses in
GRIP, cuts its cap in SLIP, and gives it back in RECOVER; its fault becomes live as it enters SLIP, latching and counting, and
not live as it gives the cap back; otherwise it stays as it is (R84, R87 to R93, R96, R143). -/
def Obligations.SlipMonitorJudges : Prop :=
  ∀ (s : State) (x : Axle) (f : StatusFrame) (l : AxleLink) (m : SlipMonitor),
    Clocked s → l = s.link.get x → m = s.sm.get x → l.partialBytes = [] →
    -32768 ≤ f.torque → f.torque ≤ 32767 → -32768 ≤ f.speed → f.speed ≤ 32767 →
    f.availDrive < 65536 → f.availRegen < 65536 → f.noticeArg < 65536 →
    (l.state = .synced ∨ l.state = .hunt ∨ l.state = .starting ∨ l.state = .lost →
      (s.oc.state ≠ .armed ∨ s.di.refSpeedKnown = false ∨ m.monitored = 0
        ∨ ((l.state = .starting ∨ l.state = .lost) ∧ l.recovery + 1 < s.hp.params.linkRecoverFrames)) →
      ∃ t, exec (.statusFrameAccepted x f.bytes) s = .next t ∧ t.sm.get x = m
        ∧ faultRecord (slipFault x) t = faultRecord (slipFault x) s
        ∧ ∀ d, t.ct.slots.get .slip x d = s.ct.slots.get .slip x d)
    ∧ (∀ (p : Profile) (d : Direction) (slip test : Int),
        l.state = .synced ∨ l.state = .hunt
          ∨ ((l.state = .starting ∨ l.state = .lost) ∧ s.hp.params.linkRecoverFrames ≤ l.recovery + 1) →
        s.oc.state = .armed → s.di.refSpeedKnown = true → m.monitored ≠ 0 → m.counting = some d →
        (s.pt.slots.get s.pt.active).profile = some p → p.slipOff < p.slipOn →
        slip = Int.tdiv ((f.speed - s.di.refSpeed) * 1000) (max (s.di.refSpeed.natAbs : Int) 100) →
        test = (match d with | .drive => slip | .regen => -slip) →
        ∃ t, exec (.statusFrameAccepted x f.bytes) s = .next t
          ∧ (m.state = .idle → t.sm.get x = { m with state := .grip, run := 0 })
          ∧ (m.state = .grip → test < p.slipOn → t.sm.get x = { m with run := 0 })
          ∧ (m.state = .grip → (p.slipOn : Int) ≤ test → m.run + 1 < p.slipCount →
              t.sm.get x = { m with run := min (m.run + 1) 16 })
          ∧ (m.state = .grip → (p.slipOn : Int) ≤ test → p.slipCount ≤ m.run + 1 →
              ∃ cap, cap = min (max p.slipFloor (f.torque.natAbs - p.cutStep)) 8000
                ∧ t.sm.get x = { m with state := .slip, run := 0, cap := some cap, live := true }
                ∧ t.ct.slots.get .slip x d = some ⟨cap, s.se.periodNumber⟩
                ∧ LiveTaken (slipFault x) true s t)
          ∧ (m.state = .idle ∨ (m.state = .grip ∧ (test < p.slipOn ∨ m.run + 1 < p.slipCount)) →
              (∀ e, t.ct.slots.get .slip x e = s.ct.slots.get .slip x e)
                ∧ faultRecord (slipFault x) t = faultRecord (slipFault x) s)
          ∧ (∀ e, e ≠ d → t.ct.slots.get .slip x e = s.ct.slots.get .slip x e)
          ∧ (∀ cap, m.state = .slip ∨ m.state = .recover → m.cap = some cap →
              ((p.slipOn : Int) ≤ test →
                t.sm.get x = { m with state := .slip, cap := some (max p.slipFloor (cap - p.cutStep)) }
                  ∧ t.ct.slots.get .slip x d
                      = some ⟨min (max p.slipFloor (cap - p.cutStep)) 8000, s.se.periodNumber⟩)
              ∧ ((p.slipOff : Int) ≤ test → test < p.slipOn → t.sm.get x = m
                  ∧ t.ct.slots.get .slip x d = s.ct.slots.get .slip x d)
              ∧ (m.state = .slip → test < p.slipOff → t.sm.get x = { m with state := .recover }
                  ∧ t.ct.slots.get .slip x d = s.ct.slots.get .slip x d)
              ∧ (∀ limit, m.state = .recover → test < p.slipOff →
                  (x, d, limit) ∈ [(Axle.front, Direction.drive, p.driveLimitFront), (.rear, .drive, p.driveLimitRear),
                                   (.front, .regen, p.regenLimitFront), (.rear, .regen, p.regenLimitRear)] →
                  (cap + p.recoverStep < limit →
                    t.sm.get x = { m with cap := some (cap + p.recoverStep) }
                      ∧ t.ct.slots.get .slip x d = some ⟨min (cap + p.recoverStep) 8000, s.se.periodNumber⟩)
                  ∧ (limit ≤ cap + p.recoverStep →
                    t.sm.get x = { m with state := .grip, run := 0, cap := none, live := false }
                      ∧ t.ct.slots.get .slip x d = none ∧ LiveTaken (slipFault x) false s t)))
          ∧ (m.state = .slip ∨ (m.state = .recover ∧ (p.slipOff : Int) ≤ test) →
              faultRecord (slipFault x) t = faultRecord (slipFault x) s))

/-- A Tracking Monitor looks up the echo in the link's ring: a stale echo is counted and, like a frame that is not judged,
leaves the run count, the TRACK entries and TRACK_x alone; a frame of an enabled command is judged while OC is ARMED; and a run
of deviations over the threshold posts TRACK entries of limit 0 in both directions, which make TRACK_x live, latching and
counting, unless an entry of the axle stood (R45, R98, R99, R126, R143). A period take between the two posts sees the DRIVE post
alone; a CAP WITHDRAW SOURCE TRACK between them removes it, and the REGEN post then stands alone, with TRACK_x live again and
counted twice (R44, R56, R60; that the operand says what is taken between the claims, that the DRIVE claim comes first, and that
the Slip Monitor takes the frame before the Tracking Monitor, is the model's choice, log 31, log 33, log 34). -/
def Obligations.TrackingMonitorJudges : Prop :=
  ∀ (s : State) (x : Axle) (f : StatusFrame) (l : AxleLink) (p : Profile),
    Clocked s → l = s.link.get x → l.partialBytes = [] →
    l.state = .synced ∨ l.state = .hunt ∨ l.state = .starting ∨ l.state = .lost →
    -32768 ≤ f.torque → f.torque ≤ 32767 → -32768 ≤ f.speed → f.speed ≤ 32767 →
    f.availDrive < 65536 → f.availRegen < 65536 → f.noticeArg < 65536 →
    (s.pt.slots.get s.pt.active).profile = some p →
    ∃ t, exec (.statusFrameAccepted x f.bytes) s = .next t
      ∧ ((∀ e ∈ l.ring, e.seq ≠ f.echo) →
          (t.link.get x).counters.staleEchoes = min (l.counters.staleEchoes + 1) 65535
            ∧ t.tm.get x = s.tm.get x ∧ (∀ d, t.ct.slots.get .track x d = s.ct.slots.get .track x d)
            ∧ faultRecord (trackFault x) t = faultRecord (trackFault x) s)
      ∧ (∀ e, l.ring.find? (fun e => decide (e.seq = f.echo)) = some e →
          (t.link.get x).counters.staleEchoes = l.counters.staleEchoes
          ∧ (e.enable = false ∨ s.oc.state ≠ .armed → t.tm.get x = s.tm.get x
              ∧ (∀ d, t.ct.slots.get .track x d = s.ct.slots.get .track x d)
              ∧ faultRecord (trackFault x) t = faultRecord (trackFault x) s)
          ∧ (e.enable = true → s.oc.state = .armed →
              ((f.torque - e.torque).natAbs ≤ p.trackThreshold → t.tm.get x = { run := 0 })
              ∧ (p.trackThreshold < (f.torque - e.torque).natAbs → (s.tm.get x).run + 1 < p.trackCount →
                  t.tm.get x = { run := min ((s.tm.get x).run + 1) 64 })
              ∧ ((f.torque - e.torque).natAbs ≤ p.trackThreshold ∨ (s.tm.get x).run + 1 < p.trackCount →
                  (∀ d, t.ct.slots.get .track x d = s.ct.slots.get .track x d)
                    ∧ faultRecord (trackFault x) t = faultRecord (trackFault x) s)
              ∧ (p.trackThreshold < (f.torque - e.torque).natAbs → p.trackCount ≤ (s.tm.get x).run + 1 →
                  t.tm.get x = { run := 0 }
                    ∧ (∀ d, t.ct.slots.get .track x d = some ⟨0, s.se.periodNumber⟩)
                    ∧ ((∀ d, s.ct.slots.get .track x d = none) → LiveTaken (trackFault x) true s t)
                    ∧ ((∃ d, (s.ct.slots.get .track x d).isSome = true) →
                        faultRecord (trackFault x) t = faultRecord (trackFault x) s)
                    ∧ (∀ (w : PeriodWork) (period : Nat) (both : InternalSlots), Standing 3 w s →
                        s.di.refSpeedKnown = false →
                        l.state = .synced ∨ l.state = .hunt → period = s.se.periodNumber →
                        both = (s.ct.slots.with .inverter x .drive (min f.availDrive 8000) period).with .inverter x .regen
                          (min f.availRegen 8000) period →
                        (∃ u, exec (.statusFrameAccepted x f.bytes [(.monitors, .period .caps)]) s = .next u
                          ∧ TookCaps w both s u ∧ ∀ d, u.ct.slots.get .track x d = some ⟨0, period⟩)
                        ∧ (∃ u, exec (.statusFrameAccepted x f.bytes [(.track, .period .caps)]) s = .next u
                          ∧ TookCaps w (both.with .track x .drive 0 period) s u
                          ∧ ∀ d, u.ct.slots.get .track x d = some ⟨0, period⟩))
                    ∧ (∀ q : HostFrame, Handed .capWithdrawSource q s → u8At q.payload 0 = 3 →
                        (∀ z d, s.ct.slots.get .track z d = none) →
                        ∃ u, exec (.statusFrameAccepted x f.bytes [(.track, .capWithdrawSource)]) s = .next u
                          ∧ (∀ z d, u.ct.slots.get .track z d
                              = if z = x ∧ d = .regen then some ⟨0, s.se.periodNumber⟩ else none)
                          ∧ (faultRecord (trackFault x) u).live = true
                          ∧ ((faultRecord (trackFault x) s).present = false → (faultRecord (trackFault x) u).latched = true
                              ∧ (faultRecord (trackFault x) u).count = min ((faultRecord (trackFault x) s).count + 2) 255)
                          ∧ ((faultRecord (trackFault x) s).test = true →
                              (faultRecord (trackFault x) u).latched = (faultRecord (trackFault x) s).latched
                              ∧ (faultRecord (trackFault x) u).count = (faultRecord (trackFault x) s).count)
                          ∧ AnsweredAfterNotice q .ok (u8 1 ++ u8 s.ct.pool.length) s u))))

/-! ### The reference clock -/

/-- A clock-check window counts as inside for 19600 to 20400 edges; three windows in a row on the other side change TIMEBASE,
and TIMEBASE live trips the part in READY, with REFCLK or without; in STANDBY it changes nothing in Output Control. The fault
latches and counts as it becomes present, with the notice that is due. An ARM taken after the Fault Unit's take and before
Output Control's take of the notice is refused with condition 6, and OC ends TRIPPED (R127, R131, R136, R143, R144, R146, R151,
R152; that the operand says what is taken between the two, and that the ARM's reply enters before a FAULT NOTICE of the change,
is the model's choice, log 31, log 35). -/
def Obligations.ClockCheckJudges : Prop :=
  ∀ (s : State) (edges : Nat) (inside : Bool), s.resetnLow = false →
    inside = decide (19600 ≤ edges ∧ edges ≤ 20400) →
    ∃ t, exec (.clockCheckWindowEnd edges) s = .next t
      ∧ t.tb = { s.tb with
          insideRun := if inside then min (s.tb.insideRun + 1) 3 else 0
          outsideRun := if inside then 0 else min (s.tb.outsideRun + 1) 3
          timebaseLive := if inside = true ∧ 2 ≤ s.tb.insideRun then false
                          else if inside = false ∧ 2 ≤ s.tb.outsideRun then true else s.tb.timebaseLive }
      ∧ (t.tb.timebaseLive = s.tb.timebaseLive → OnlyChanges [.tb] s t)
      ∧ (t.tb.timebaseLive ≠ s.tb.timebaseLive → LiveTaken .timebase t.tb.timebaseLive s t)
      ∧ (s.tb.timebaseLive = true ∨ s.hp.part = .standby → OnlyFaults [.timebase] s t)
      ∧ OnlyFaults [.timebase, .slipF, .slipR] s t ∧ NoticesSent [] s t
      ∧ (s.tb.timebaseLive = true → t.tb.timebaseLive = false → OnlyChanges [.tb, .fu, .tx, .skips] s t)
      ∧ (s.tb.timebaseLive = false → t.tb.timebaseLive = true → (faultRecord .timebase s).present = false →
          s.hp.part = .ready → s.oc.state ≠ .tripped →
          t.oc.state = .tripped ∧ t.oc.tripRecord = some ⟨.fault .timebase, s.se.periodNumber⟩
            ∧ t.oc.enF = (if s.oc.state = .armed then false else s.oc.enF)
            ∧ ∀ x, (t.link.get x).breakSending = true ∧ (t.link.get x).inFlight = none
                ∧ (t.link.get x).waiting = none)
      ∧ (s.hp.part = .standby → OnlyChanges [.tb, .fu, .tx, .skips] s t)
      ∧ (∀ f : HostFrame, s.tb.timebaseLive = false → t.tb.timebaseLive = true → s.oc.state = .disarmed →
          (∀ x, (s.link.get x).state = .synced) → (∀ c, (faultRecord c s).test = false) →
          (faultRecord .timebase s).live = false → Handed .arm f s →
          ∃ u, exec (.clockCheckWindowEnd edges [(.forcing, .arm)]) s = .next u
            ∧ u.tb = t.tb ∧ Answered f .state (u8 6) s u
            ∧ u.oc = { s.oc with state := .tripped, tripRecord := some ⟨.fault .timebase, s.se.periodNumber⟩ })

/-- REFCLK_STOPS holds the period timer and the measures of the host line and of both axle lines where they stand, each at the
command's operand where it is being taken, also of a frame that a software reset left on a line; while REFCLK is absent no byte,
gap, frame end, period or timer expiry on it has an effect; REFCLK_RETURNS lets them go on, and a frame waiting for the free HTX
starts (R25, R101, R154; log 12, log 14). A period operation in progress is first completed, as a PERIOD_EXPIRY through stage 12
does; that this is as REFCLK stops is the model's choice (log 40). -/
def Obligations.RefclkStopsAndReturns : Prop :=
  (∀ (s : State) (m : Measures), s.tb.refclk = true → s.se.work = none →
      ∃ t, exec (.refclkStops m) s = .next t ∧ t.tb = { s.tb with refclk := false }
        ∧ t.se = { s.se with timerUs := if s.se.timerRunning then m.periodUs else s.se.timerUs }
        ∧ t.hp = { s.hp with
            sendBits := if s.hp.sending.isSome then m.hostTxBits else s.hp.sendBits
            gapUs := if s.hp.framer.isSome then m.hostGapUs else s.hp.gapUs }
        ∧ t.link.get .front = (s.link.get .front).hold m.front ∧ t.link.get .rear = (s.link.get .rear).hold m.rear
        ∧ (∀ x g, (s.link.get x).inFlight = some g →
            (t.link.get x).inFlight = some g ∧ (t.link.get x).txBits = (lineMeasures x m).txBits)
        ∧ (∀ x g bits, (s.link.get x).tail = .frame g bits →
            (t.link.get x).tail = .frame g (lineMeasures x m).txBits)
        ∧ (∀ x, (s.link.get x).partialBytes ≠ [] →
            (t.link.get x).partialBytes = (s.link.get x).partialBytes
              ∧ (t.link.get x).rxGapUs = (lineMeasures x m).rxGapUs)
        ∧ OnlyChanges [.tb, .se, .tx, .framer, .line .front, .line .rear, .rx .front, .rx .rear] s t)
  ∧ (∀ (s : State) (w : PeriodWork) (m : Measures), Clocked s → s.se.work = some w →
      ∃ u, exec (.periodExpiry .report) s = .next u ∧ u.tb = s.tb ∧ u.se.work = none
        ∧ exec (.refclkStops m) s = exec (.refclkStops m) u)
  ∧ (∀ (s : State) (c : Instr) (x : Axle) (bytes : List Byte) (err : Bool) (h : HostSource) (d : Direction)
      (through : Stage) (slip : SlipOrder) (met : Option MetTrip), s.tb.refclk = false →
      c ∈ [Instr.periodExpiry through slip, .hostFrameReceived bytes, .hostGapTimeout, .hostFrameSent,
           .hostEntryExpiry h x d, .armWindowExpiry, .linkTimerExpiry x, .commandFrameComplete x met,
           .statusFrameAccepted x bytes, .statusFrameBad x bytes err, .receiveGapCut x, .lineLow90us x] →
      exec c s = .next s)
  ∧ (∀ s : State, s.tb.refclk = false →
      ∃ t, exec .refclkReturns s = .next t ∧ t.tb = { s.tb with refclk := true } ∧ outbox t = outbox s
        ∧ (∀ g, s.hp.sending = some g → t.hp.sending = some g ∧ t.hp.sendBits = s.hp.sendBits)
        ∧ (s.hp.sending = none → t.hp.sending = s.hp.txQueue.head?)
        ∧ OnlyChanges [.tb, .tx] s t)

/-! ### What every step keeps -/

/-- Every step keeps Output Control consistent: the enable lines are asserted exactly in ARMED, the arm window runs only in
ARMING, and in READY a present FORCING condition holds the part in TRIPPED (R128, R133, R136). -/
def Obligations.StepKeepsOutputControl : Prop :=
  ∀ s t : State, EnablesFollowArmed s → WindowOnlyInArming s → ForcingHoldsTripped s → step s = .next t →
    EnablesFollowArmed t ∧ WindowOnlyInArming t ∧ ForcingHoldsTripped t

/-- Every step keeps ATTN at its level: asserted in STANDBY, or while an unmasked fault is latched (R145). -/
def Obligations.StepKeepsAttn : Prop :=
  ∀ s t : State, AttnFollowsFaults s → step s = .next t → AttnFollowsFaults t

/-- Every step keeps the profiles in range, the active slot VALID and every share at most 1000 (R64, R66, R67, R75, R80). -/
def Obligations.StepKeepsSharesInRange : Prop :=
  ∀ s t : State, SharesInRange s → step s = .next t → SharesInRange t

/-- Every step keeps the LINK entries, the out record and the slip caps in step with the states of the links and of the Slip
Monitors, and, the profiles being in range, the SLIP entries in step with the Slip Monitors' caps (R44, R85, R93, R96, R118,
R120). -/
def Obligations.StepKeepsCapsWithStates : Prop :=
  ∀ s t : State, LinkEntriesFollowState s → OutRecordFollowsLinks s → SlipFollowsState s → step s = .next t →
    LinkEntriesFollowState t ∧ OutRecordFollowsLinks t ∧ SlipFollowsState t
      ∧ (SharesInRange s → SlipEntriesFollowMonitors s → SlipEntriesFollowMonitors t)

/-- Every step keeps each fault's live field equal to the condition its block signals (R19, R45, R96, R119, R120, R142, R151,
R156). The premise on STANDBY rules out states no run reaches; it is kept as well, by another statement. -/
def Obligations.StepKeepsFaultsLive : Prop :=
  ∀ s t : State, StandbyHoldsResetValues s → FaultsFollowConditions s → step s = .next t → FaultsFollowConditions t

/-- Every step keeps the reset values of STANDBY, the period timer running exactly in READY, and no period operation in progress
while REFCLK is absent (R2, R25, R27, R61, R63, R104, R127, R153). That one in progress is completed as REFCLK stops is the
model's choice (log 40). -/
def Obligations.StepKeepsStandby : Prop :=
  ∀ s t : State, StandbyHoldsResetValues s → TimerRunsInReady s → step s = .next t →
    StandbyHoldsResetValues t ∧ TimerRunsInReady t ∧ (OperationHasClock s → OperationHasClock t)

/-- Every step keeps the queues, the rings and the host pool within their sizes, a transmit place free for a pending SYNC, and
at most one host entry for each key (R42, R46, R106, R157, R158, R161, R166). -/
def Obligations.StepKeepsQueuesAndPool : Prop :=
  ∀ s t : State, QueuesBounded s → PoolKeysDistinct s → step s = .next t → QueuesBounded t ∧ PoolKeysDistinct t

end
end

