-- ==== Sys2Proof/Laws/State.lean ====
section
/-! SUPPORT. The updates of the state: what each setter changes and what it leaves, field by field, true by rfl. -/

namespace Sys2Proof.Machine

/-! ### One value for each axle or direction -/

@[simp] theorem ByAxle.get_front {α : Type} (p : ByAxle α) : p.get .front = p.front := rfl
@[simp] theorem ByAxle.get_rear {α : Type} (p : ByAxle α) : p.get .rear = p.rear := rfl
@[simp] theorem ByAxle.set_front {α : Type} (p : ByAxle α) (v : α) : p.set .front v = { p with front := v } := rfl
@[simp] theorem ByAxle.set_rear {α : Type} (p : ByAxle α) (v : α) : p.set .rear v = { p with rear := v } := rfl
@[simp] theorem ByDir.get_drive {α : Type} (p : ByDir α) : p.get .drive = p.drive := rfl
@[simp] theorem ByDir.get_regen {α : Type} (p : ByDir α) : p.get .regen = p.regen := rfl

@[simp] theorem ByAxle.get_set_same {α : Type} (p : ByAxle α) (x : Axle) (v : α) : (p.set x v).get x = v := by
  cases x <;> rfl

theorem ByAxle.get_set_of_ne {α : Type} (p : ByAxle α) {x y : Axle} (v : α) (h : y ≠ x) :
    (p.set x v).get y = p.get y := by
  cases x <;> cases y <;> first | rfl | exact absurd rfl h

theorem ByAxle.get_set {α : Type} (p : ByAxle α) (x y : Axle) (v : α) :
    (p.set x v).get y = if y = x then v else p.get y := by
  cases x <;> cases y <;> rfl

@[simp] theorem ByDir.get_set_same {α : Type} (p : ByDir α) (d : Direction) (v : α) : (p.set d v).get d = v := by
  cases d <;> rfl

theorem ByDir.get_set {α : Type} (p : ByDir α) (d e : Direction) (v : α) :
    (p.set d v).get e = if e = d then v else p.get e := by
  cases d <;> cases e <;> rfl

/-! ### The setters -/

@[simp] theorem State.setSe_se (s : State) (v : SplitEngine) : (s.setSe v).se = v := rfl
@[simp] theorem State.setSe_di (s : State) (v : SplitEngine) : (s.setSe v).di = s.di := rfl
@[simp] theorem State.setSe_ct (s : State) (v : SplitEngine) : (s.setSe v).ct = s.ct := rfl
@[simp] theorem State.setSe_pt (s : State) (v : SplitEngine) : (s.setSe v).pt = s.pt := rfl
@[simp] theorem State.setSe_sm (s : State) (v : SplitEngine) : (s.setSe v).sm = s.sm := rfl
@[simp] theorem State.setSe_tm (s : State) (v : SplitEngine) : (s.setSe v).tm = s.tm := rfl
@[simp] theorem State.setSe_link (s : State) (v : SplitEngine) : (s.setSe v).link = s.link := rfl
@[simp] theorem State.setSe_out (s : State) (v : SplitEngine) : (s.setSe v).out = s.out := rfl
@[simp] theorem State.setSe_oc (s : State) (v : SplitEngine) : (s.setSe v).oc = s.oc := rfl
@[simp] theorem State.setSe_fu (s : State) (v : SplitEngine) : (s.setSe v).fu = s.fu := rfl
@[simp] theorem State.setSe_hp (s : State) (v : SplitEngine) : (s.setSe v).hp = s.hp := rfl
@[simp] theorem State.setSe_tb (s : State) (v : SplitEngine) : (s.setSe v).tb = s.tb := rfl
@[simp] theorem State.setSe_resetnLow (s : State) (v : SplitEngine) : (s.setSe v).resetnLow = s.resetnLow := rfl
@[simp] theorem State.setSe_freeIndex (s : State) (v : SplitEngine) : (s.setSe v).freeIndex = s.freeIndex := rfl
@[simp] theorem State.setSe_pending (s : State) (v : SplitEngine) : (s.setSe v).pending = s.pending := rfl

@[simp] theorem State.setDi_se (s : State) (v : DemandIntake) : (s.setDi v).se = s.se := rfl
@[simp] theorem State.setDi_di (s : State) (v : DemandIntake) : (s.setDi v).di = v := rfl
@[simp] theorem State.setDi_ct (s : State) (v : DemandIntake) : (s.setDi v).ct = s.ct := rfl
@[simp] theorem State.setDi_pt (s : State) (v : DemandIntake) : (s.setDi v).pt = s.pt := rfl
@[simp] theorem State.setDi_sm (s : State) (v : DemandIntake) : (s.setDi v).sm = s.sm := rfl
@[simp] theorem State.setDi_tm (s : State) (v : DemandIntake) : (s.setDi v).tm = s.tm := rfl
@[simp] theorem State.setDi_link (s : State) (v : DemandIntake) : (s.setDi v).link = s.link := rfl
@[simp] theorem State.setDi_out (s : State) (v : DemandIntake) : (s.setDi v).out = s.out := rfl
@[simp] theorem State.setDi_oc (s : State) (v : DemandIntake) : (s.setDi v).oc = s.oc := rfl
@[simp] theorem State.setDi_fu (s : State) (v : DemandIntake) : (s.setDi v).fu = s.fu := rfl
@[simp] theorem State.setDi_hp (s : State) (v : DemandIntake) : (s.setDi v).hp = s.hp := rfl
@[simp] theorem State.setDi_tb (s : State) (v : DemandIntake) : (s.setDi v).tb = s.tb := rfl
@[simp] theorem State.setDi_resetnLow (s : State) (v : DemandIntake) : (s.setDi v).resetnLow = s.resetnLow := rfl
@[simp] theorem State.setDi_freeIndex (s : State) (v : DemandIntake) : (s.setDi v).freeIndex = s.freeIndex := rfl
@[simp] theorem State.setDi_pending (s : State) (v : DemandIntake) : (s.setDi v).pending = s.pending := rfl

@[simp] theorem State.setCt_se (s : State) (v : CapTable) : (s.setCt v).se = s.se := rfl
@[simp] theorem State.setCt_di (s : State) (v : CapTable) : (s.setCt v).di = s.di := rfl
@[simp] theorem State.setCt_ct (s : State) (v : CapTable) : (s.setCt v).ct = v := rfl
@[simp] theorem State.setCt_pt (s : State) (v : CapTable) : (s.setCt v).pt = s.pt := rfl
@[simp] theorem State.setCt_sm (s : State) (v : CapTable) : (s.setCt v).sm = s.sm := rfl
@[simp] theorem State.setCt_tm (s : State) (v : CapTable) : (s.setCt v).tm = s.tm := rfl
@[simp] theorem State.setCt_link (s : State) (v : CapTable) : (s.setCt v).link = s.link := rfl
@[simp] theorem State.setCt_out (s : State) (v : CapTable) : (s.setCt v).out = s.out := rfl
@[simp] theorem State.setCt_oc (s : State) (v : CapTable) : (s.setCt v).oc = s.oc := rfl
@[simp] theorem State.setCt_fu (s : State) (v : CapTable) : (s.setCt v).fu = s.fu := rfl
@[simp] theorem State.setCt_hp (s : State) (v : CapTable) : (s.setCt v).hp = s.hp := rfl
@[simp] theorem State.setCt_tb (s : State) (v : CapTable) : (s.setCt v).tb = s.tb := rfl
@[simp] theorem State.setCt_resetnLow (s : State) (v : CapTable) : (s.setCt v).resetnLow = s.resetnLow := rfl
@[simp] theorem State.setCt_freeIndex (s : State) (v : CapTable) : (s.setCt v).freeIndex = s.freeIndex := rfl
@[simp] theorem State.setCt_pending (s : State) (v : CapTable) : (s.setCt v).pending = s.pending := rfl

@[simp] theorem State.setPt_se (s : State) (v : ProfileTable) : (s.setPt v).se = s.se := rfl
@[simp] theorem State.setPt_di (s : State) (v : ProfileTable) : (s.setPt v).di = s.di := rfl
@[simp] theorem State.setPt_ct (s : State) (v : ProfileTable) : (s.setPt v).ct = s.ct := rfl
@[simp] theorem State.setPt_pt (s : State) (v : ProfileTable) : (s.setPt v).pt = v := rfl
@[simp] theorem State.setPt_sm (s : State) (v : ProfileTable) : (s.setPt v).sm = s.sm := rfl
@[simp] theorem State.setPt_tm (s : State) (v : ProfileTable) : (s.setPt v).tm = s.tm := rfl
@[simp] theorem State.setPt_link (s : State) (v : ProfileTable) : (s.setPt v).link = s.link := rfl
@[simp] theorem State.setPt_out (s : State) (v : ProfileTable) : (s.setPt v).out = s.out := rfl
@[simp] theorem State.setPt_oc (s : State) (v : ProfileTable) : (s.setPt v).oc = s.oc := rfl
@[simp] theorem State.setPt_fu (s : State) (v : ProfileTable) : (s.setPt v).fu = s.fu := rfl
@[simp] theorem State.setPt_hp (s : State) (v : ProfileTable) : (s.setPt v).hp = s.hp := rfl
@[simp] theorem State.setPt_tb (s : State) (v : ProfileTable) : (s.setPt v).tb = s.tb := rfl
@[simp] theorem State.setPt_resetnLow (s : State) (v : ProfileTable) : (s.setPt v).resetnLow = s.resetnLow := rfl
@[simp] theorem State.setPt_freeIndex (s : State) (v : ProfileTable) : (s.setPt v).freeIndex = s.freeIndex := rfl
@[simp] theorem State.setPt_pending (s : State) (v : ProfileTable) : (s.setPt v).pending = s.pending := rfl

@[simp] theorem State.setOut_se (s : State) (v : OutRecord) : (s.setOut v).se = s.se := rfl
@[simp] theorem State.setOut_di (s : State) (v : OutRecord) : (s.setOut v).di = s.di := rfl
@[simp] theorem State.setOut_ct (s : State) (v : OutRecord) : (s.setOut v).ct = s.ct := rfl
@[simp] theorem State.setOut_pt (s : State) (v : OutRecord) : (s.setOut v).pt = s.pt := rfl
@[simp] theorem State.setOut_sm (s : State) (v : OutRecord) : (s.setOut v).sm = s.sm := rfl
@[simp] theorem State.setOut_tm (s : State) (v : OutRecord) : (s.setOut v).tm = s.tm := rfl
@[simp] theorem State.setOut_link (s : State) (v : OutRecord) : (s.setOut v).link = s.link := rfl
@[simp] theorem State.setOut_out (s : State) (v : OutRecord) : (s.setOut v).out = v := rfl
@[simp] theorem State.setOut_oc (s : State) (v : OutRecord) : (s.setOut v).oc = s.oc := rfl
@[simp] theorem State.setOut_fu (s : State) (v : OutRecord) : (s.setOut v).fu = s.fu := rfl
@[simp] theorem State.setOut_hp (s : State) (v : OutRecord) : (s.setOut v).hp = s.hp := rfl
@[simp] theorem State.setOut_tb (s : State) (v : OutRecord) : (s.setOut v).tb = s.tb := rfl
@[simp] theorem State.setOut_resetnLow (s : State) (v : OutRecord) : (s.setOut v).resetnLow = s.resetnLow := rfl
@[simp] theorem State.setOut_freeIndex (s : State) (v : OutRecord) : (s.setOut v).freeIndex = s.freeIndex := rfl
@[simp] theorem State.setOut_pending (s : State) (v : OutRecord) : (s.setOut v).pending = s.pending := rfl

@[simp] theorem State.setOc_se (s : State) (v : OutputControl) : (s.setOc v).se = s.se := rfl
@[simp] theorem State.setOc_di (s : State) (v : OutputControl) : (s.setOc v).di = s.di := rfl
@[simp] theorem State.setOc_ct (s : State) (v : OutputControl) : (s.setOc v).ct = s.ct := rfl
@[simp] theorem State.setOc_pt (s : State) (v : OutputControl) : (s.setOc v).pt = s.pt := rfl
@[simp] theorem State.setOc_sm (s : State) (v : OutputControl) : (s.setOc v).sm = s.sm := rfl
@[simp] theorem State.setOc_tm (s : State) (v : OutputControl) : (s.setOc v).tm = s.tm := rfl
@[simp] theorem State.setOc_link (s : State) (v : OutputControl) : (s.setOc v).link = s.link := rfl
@[simp] theorem State.setOc_out (s : State) (v : OutputControl) : (s.setOc v).out = s.out := rfl
@[simp] theorem State.setOc_oc (s : State) (v : OutputControl) : (s.setOc v).oc = v := rfl
@[simp] theorem State.setOc_fu (s : State) (v : OutputControl) : (s.setOc v).fu = s.fu := rfl
@[simp] theorem State.setOc_hp (s : State) (v : OutputControl) : (s.setOc v).hp = s.hp := rfl
@[simp] theorem State.setOc_tb (s : State) (v : OutputControl) : (s.setOc v).tb = s.tb := rfl
@[simp] theorem State.setOc_resetnLow (s : State) (v : OutputControl) : (s.setOc v).resetnLow = s.resetnLow := rfl
@[simp] theorem State.setOc_freeIndex (s : State) (v : OutputControl) : (s.setOc v).freeIndex = s.freeIndex := rfl
@[simp] theorem State.setOc_pending (s : State) (v : OutputControl) : (s.setOc v).pending = s.pending := rfl

@[simp] theorem State.setFu_se (s : State) (v : FaultUnit) : (s.setFu v).se = s.se := rfl
@[simp] theorem State.setFu_di (s : State) (v : FaultUnit) : (s.setFu v).di = s.di := rfl
@[simp] theorem State.setFu_ct (s : State) (v : FaultUnit) : (s.setFu v).ct = s.ct := rfl
@[simp] theorem State.setFu_pt (s : State) (v : FaultUnit) : (s.setFu v).pt = s.pt := rfl
@[simp] theorem State.setFu_sm (s : State) (v : FaultUnit) : (s.setFu v).sm = s.sm := rfl
@[simp] theorem State.setFu_tm (s : State) (v : FaultUnit) : (s.setFu v).tm = s.tm := rfl
@[simp] theorem State.setFu_link (s : State) (v : FaultUnit) : (s.setFu v).link = s.link := rfl
@[simp] theorem State.setFu_out (s : State) (v : FaultUnit) : (s.setFu v).out = s.out := rfl
@[simp] theorem State.setFu_oc (s : State) (v : FaultUnit) : (s.setFu v).oc = s.oc := rfl
@[simp] theorem State.setFu_fu (s : State) (v : FaultUnit) : (s.setFu v).fu = v := rfl
@[simp] theorem State.setFu_hp (s : State) (v : FaultUnit) : (s.setFu v).hp = s.hp := rfl
@[simp] theorem State.setFu_tb (s : State) (v : FaultUnit) : (s.setFu v).tb = s.tb := rfl
@[simp] theorem State.setFu_resetnLow (s : State) (v : FaultUnit) : (s.setFu v).resetnLow = s.resetnLow := rfl
@[simp] theorem State.setFu_freeIndex (s : State) (v : FaultUnit) : (s.setFu v).freeIndex = s.freeIndex := rfl
@[simp] theorem State.setFu_pending (s : State) (v : FaultUnit) : (s.setFu v).pending = s.pending := rfl

@[simp] theorem State.setHp_se (s : State) (v : HostPort) : (s.setHp v).se = s.se := rfl
@[simp] theorem State.setHp_di (s : State) (v : HostPort) : (s.setHp v).di = s.di := rfl
@[simp] theorem State.setHp_ct (s : State) (v : HostPort) : (s.setHp v).ct = s.ct := rfl
@[simp] theorem State.setHp_pt (s : State) (v : HostPort) : (s.setHp v).pt = s.pt := rfl
@[simp] theorem State.setHp_sm (s : State) (v : HostPort) : (s.setHp v).sm = s.sm := rfl
@[simp] theorem State.setHp_tm (s : State) (v : HostPort) : (s.setHp v).tm = s.tm := rfl
@[simp] theorem State.setHp_link (s : State) (v : HostPort) : (s.setHp v).link = s.link := rfl
@[simp] theorem State.setHp_out (s : State) (v : HostPort) : (s.setHp v).out = s.out := rfl
@[simp] theorem State.setHp_oc (s : State) (v : HostPort) : (s.setHp v).oc = s.oc := rfl
@[simp] theorem State.setHp_fu (s : State) (v : HostPort) : (s.setHp v).fu = s.fu := rfl
@[simp] theorem State.setHp_hp (s : State) (v : HostPort) : (s.setHp v).hp = v := rfl
@[simp] theorem State.setHp_tb (s : State) (v : HostPort) : (s.setHp v).tb = s.tb := rfl
@[simp] theorem State.setHp_resetnLow (s : State) (v : HostPort) : (s.setHp v).resetnLow = s.resetnLow := rfl
@[simp] theorem State.setHp_freeIndex (s : State) (v : HostPort) : (s.setHp v).freeIndex = s.freeIndex := rfl
@[simp] theorem State.setHp_pending (s : State) (v : HostPort) : (s.setHp v).pending = s.pending := rfl

@[simp] theorem State.setTb_se (s : State) (v : Timebase) : (s.setTb v).se = s.se := rfl
@[simp] theorem State.setTb_di (s : State) (v : Timebase) : (s.setTb v).di = s.di := rfl
@[simp] theorem State.setTb_ct (s : State) (v : Timebase) : (s.setTb v).ct = s.ct := rfl
@[simp] theorem State.setTb_pt (s : State) (v : Timebase) : (s.setTb v).pt = s.pt := rfl
@[simp] theorem State.setTb_sm (s : State) (v : Timebase) : (s.setTb v).sm = s.sm := rfl
@[simp] theorem State.setTb_tm (s : State) (v : Timebase) : (s.setTb v).tm = s.tm := rfl
@[simp] theorem State.setTb_link (s : State) (v : Timebase) : (s.setTb v).link = s.link := rfl
@[simp] theorem State.setTb_out (s : State) (v : Timebase) : (s.setTb v).out = s.out := rfl
@[simp] theorem State.setTb_oc (s : State) (v : Timebase) : (s.setTb v).oc = s.oc := rfl
@[simp] theorem State.setTb_fu (s : State) (v : Timebase) : (s.setTb v).fu = s.fu := rfl
@[simp] theorem State.setTb_hp (s : State) (v : Timebase) : (s.setTb v).hp = s.hp := rfl
@[simp] theorem State.setTb_tb (s : State) (v : Timebase) : (s.setTb v).tb = v := rfl
@[simp] theorem State.setTb_resetnLow (s : State) (v : Timebase) : (s.setTb v).resetnLow = s.resetnLow := rfl
@[simp] theorem State.setTb_freeIndex (s : State) (v : Timebase) : (s.setTb v).freeIndex = s.freeIndex := rfl
@[simp] theorem State.setTb_pending (s : State) (v : Timebase) : (s.setTb v).pending = s.pending := rfl

@[simp] theorem State.setResetnLow_se (s : State) (v : Bool) : (s.setResetnLow v).se = s.se := rfl
@[simp] theorem State.setResetnLow_di (s : State) (v : Bool) : (s.setResetnLow v).di = s.di := rfl
@[simp] theorem State.setResetnLow_ct (s : State) (v : Bool) : (s.setResetnLow v).ct = s.ct := rfl
@[simp] theorem State.setResetnLow_pt (s : State) (v : Bool) : (s.setResetnLow v).pt = s.pt := rfl
@[simp] theorem State.setResetnLow_sm (s : State) (v : Bool) : (s.setResetnLow v).sm = s.sm := rfl
@[simp] theorem State.setResetnLow_tm (s : State) (v : Bool) : (s.setResetnLow v).tm = s.tm := rfl
@[simp] theorem State.setResetnLow_link (s : State) (v : Bool) : (s.setResetnLow v).link = s.link := rfl
@[simp] theorem State.setResetnLow_out (s : State) (v : Bool) : (s.setResetnLow v).out = s.out := rfl
@[simp] theorem State.setResetnLow_oc (s : State) (v : Bool) : (s.setResetnLow v).oc = s.oc := rfl
@[simp] theorem State.setResetnLow_fu (s : State) (v : Bool) : (s.setResetnLow v).fu = s.fu := rfl
@[simp] theorem State.setResetnLow_hp (s : State) (v : Bool) : (s.setResetnLow v).hp = s.hp := rfl
@[simp] theorem State.setResetnLow_tb (s : State) (v : Bool) : (s.setResetnLow v).tb = s.tb := rfl
@[simp] theorem State.setResetnLow_resetnLow (s : State) (v : Bool) : (s.setResetnLow v).resetnLow = v := rfl
@[simp] theorem State.setResetnLow_freeIndex (s : State) (v : Bool) : (s.setResetnLow v).freeIndex = s.freeIndex := rfl
@[simp] theorem State.setResetnLow_pending (s : State) (v : Bool) : (s.setResetnLow v).pending = s.pending := rfl

@[simp] theorem State.setFreeIndex_se (s : State) (v : Nat) : (s.setFreeIndex v).se = s.se := rfl
@[simp] theorem State.setFreeIndex_di (s : State) (v : Nat) : (s.setFreeIndex v).di = s.di := rfl
@[simp] theorem State.setFreeIndex_ct (s : State) (v : Nat) : (s.setFreeIndex v).ct = s.ct := rfl
@[simp] theorem State.setFreeIndex_pt (s : State) (v : Nat) : (s.setFreeIndex v).pt = s.pt := rfl
@[simp] theorem State.setFreeIndex_sm (s : State) (v : Nat) : (s.setFreeIndex v).sm = s.sm := rfl
@[simp] theorem State.setFreeIndex_tm (s : State) (v : Nat) : (s.setFreeIndex v).tm = s.tm := rfl
@[simp] theorem State.setFreeIndex_link (s : State) (v : Nat) : (s.setFreeIndex v).link = s.link := rfl
@[simp] theorem State.setFreeIndex_out (s : State) (v : Nat) : (s.setFreeIndex v).out = s.out := rfl
@[simp] theorem State.setFreeIndex_oc (s : State) (v : Nat) : (s.setFreeIndex v).oc = s.oc := rfl
@[simp] theorem State.setFreeIndex_fu (s : State) (v : Nat) : (s.setFreeIndex v).fu = s.fu := rfl
@[simp] theorem State.setFreeIndex_hp (s : State) (v : Nat) : (s.setFreeIndex v).hp = s.hp := rfl
@[simp] theorem State.setFreeIndex_tb (s : State) (v : Nat) : (s.setFreeIndex v).tb = s.tb := rfl
@[simp] theorem State.setFreeIndex_resetnLow (s : State) (v : Nat) : (s.setFreeIndex v).resetnLow = s.resetnLow := rfl
@[simp] theorem State.setFreeIndex_freeIndex (s : State) (v : Nat) : (s.setFreeIndex v).freeIndex = v := rfl
@[simp] theorem State.setFreeIndex_pending (s : State) (v : Nat) : (s.setFreeIndex v).pending = s.pending := rfl

@[simp] theorem State.setPending_se (s : State) (v : List Instr) : (s.setPending v).se = s.se := rfl
@[simp] theorem State.setPending_di (s : State) (v : List Instr) : (s.setPending v).di = s.di := rfl
@[simp] theorem State.setPending_ct (s : State) (v : List Instr) : (s.setPending v).ct = s.ct := rfl
@[simp] theorem State.setPending_pt (s : State) (v : List Instr) : (s.setPending v).pt = s.pt := rfl
@[simp] theorem State.setPending_sm (s : State) (v : List Instr) : (s.setPending v).sm = s.sm := rfl
@[simp] theorem State.setPending_tm (s : State) (v : List Instr) : (s.setPending v).tm = s.tm := rfl
@[simp] theorem State.setPending_link (s : State) (v : List Instr) : (s.setPending v).link = s.link := rfl
@[simp] theorem State.setPending_out (s : State) (v : List Instr) : (s.setPending v).out = s.out := rfl
@[simp] theorem State.setPending_oc (s : State) (v : List Instr) : (s.setPending v).oc = s.oc := rfl
@[simp] theorem State.setPending_fu (s : State) (v : List Instr) : (s.setPending v).fu = s.fu := rfl
@[simp] theorem State.setPending_hp (s : State) (v : List Instr) : (s.setPending v).hp = s.hp := rfl
@[simp] theorem State.setPending_tb (s : State) (v : List Instr) : (s.setPending v).tb = s.tb := rfl
@[simp] theorem State.setPending_resetnLow (s : State) (v : List Instr) : (s.setPending v).resetnLow = s.resetnLow := rfl
@[simp] theorem State.setPending_freeIndex (s : State) (v : List Instr) : (s.setPending v).freeIndex = s.freeIndex := rfl
@[simp] theorem State.setPending_pending (s : State) (v : List Instr) : (s.setPending v).pending = v := rfl

@[simp] theorem State.setSm_se (s : State) (x : Axle) (v : SlipMonitor) : (s.setSm x v).se = s.se := rfl
@[simp] theorem State.setSm_di (s : State) (x : Axle) (v : SlipMonitor) : (s.setSm x v).di = s.di := rfl
@[simp] theorem State.setSm_ct (s : State) (x : Axle) (v : SlipMonitor) : (s.setSm x v).ct = s.ct := rfl
@[simp] theorem State.setSm_pt (s : State) (x : Axle) (v : SlipMonitor) : (s.setSm x v).pt = s.pt := rfl
@[simp] theorem State.setSm_sm (s : State) (x : Axle) (v : SlipMonitor) : (s.setSm x v).sm = s.sm.set x v := rfl
@[simp] theorem State.setSm_tm (s : State) (x : Axle) (v : SlipMonitor) : (s.setSm x v).tm = s.tm := rfl
@[simp] theorem State.setSm_link (s : State) (x : Axle) (v : SlipMonitor) : (s.setSm x v).link = s.link := rfl
@[simp] theorem State.setSm_out (s : State) (x : Axle) (v : SlipMonitor) : (s.setSm x v).out = s.out := rfl
@[simp] theorem State.setSm_oc (s : State) (x : Axle) (v : SlipMonitor) : (s.setSm x v).oc = s.oc := rfl
@[simp] theorem State.setSm_fu (s : State) (x : Axle) (v : SlipMonitor) : (s.setSm x v).fu = s.fu := rfl
@[simp] theorem State.setSm_hp (s : State) (x : Axle) (v : SlipMonitor) : (s.setSm x v).hp = s.hp := rfl
@[simp] theorem State.setSm_tb (s : State) (x : Axle) (v : SlipMonitor) : (s.setSm x v).tb = s.tb := rfl
@[simp] theorem State.setSm_resetnLow (s : State) (x : Axle) (v : SlipMonitor) : (s.setSm x v).resetnLow = s.resetnLow := rfl
@[simp] theorem State.setSm_freeIndex (s : State) (x : Axle) (v : SlipMonitor) : (s.setSm x v).freeIndex = s.freeIndex := rfl
@[simp] theorem State.setSm_pending (s : State) (x : Axle) (v : SlipMonitor) : (s.setSm x v).pending = s.pending := rfl

@[simp] theorem State.setTm_se (s : State) (x : Axle) (v : TrackingMonitor) : (s.setTm x v).se = s.se := rfl
@[simp] theorem State.setTm_di (s : State) (x : Axle) (v : TrackingMonitor) : (s.setTm x v).di = s.di := rfl
@[simp] theorem State.setTm_ct (s : State) (x : Axle) (v : TrackingMonitor) : (s.setTm x v).ct = s.ct := rfl
@[simp] theorem State.setTm_pt (s : State) (x : Axle) (v : TrackingMonitor) : (s.setTm x v).pt = s.pt := rfl
@[simp] theorem State.setTm_sm (s : State) (x : Axle) (v : TrackingMonitor) : (s.setTm x v).sm = s.sm := rfl
@[simp] theorem State.setTm_tm (s : State) (x : Axle) (v : TrackingMonitor) : (s.setTm x v).tm = s.tm.set x v := rfl
@[simp] theorem State.setTm_link (s : State) (x : Axle) (v : TrackingMonitor) : (s.setTm x v).link = s.link := rfl
@[simp] theorem State.setTm_out (s : State) (x : Axle) (v : TrackingMonitor) : (s.setTm x v).out = s.out := rfl
@[simp] theorem State.setTm_oc (s : State) (x : Axle) (v : TrackingMonitor) : (s.setTm x v).oc = s.oc := rfl
@[simp] theorem State.setTm_fu (s : State) (x : Axle) (v : TrackingMonitor) : (s.setTm x v).fu = s.fu := rfl
@[simp] theorem State.setTm_hp (s : State) (x : Axle) (v : TrackingMonitor) : (s.setTm x v).hp = s.hp := rfl
@[simp] theorem State.setTm_tb (s : State) (x : Axle) (v : TrackingMonitor) : (s.setTm x v).tb = s.tb := rfl
@[simp] theorem State.setTm_resetnLow (s : State) (x : Axle) (v : TrackingMonitor) : (s.setTm x v).resetnLow = s.resetnLow := rfl
@[simp] theorem State.setTm_freeIndex (s : State) (x : Axle) (v : TrackingMonitor) : (s.setTm x v).freeIndex = s.freeIndex := rfl
@[simp] theorem State.setTm_pending (s : State) (x : Axle) (v : TrackingMonitor) : (s.setTm x v).pending = s.pending := rfl

@[simp] theorem State.setLink_se (s : State) (x : Axle) (v : AxleLink) : (s.setLink x v).se = s.se := rfl
@[simp] theorem State.setLink_di (s : State) (x : Axle) (v : AxleLink) : (s.setLink x v).di = s.di := rfl
@[simp] theorem State.setLink_ct (s : State) (x : Axle) (v : AxleLink) : (s.setLink x v).ct = s.ct := rfl
@[simp] theorem State.setLink_pt (s : State) (x : Axle) (v : AxleLink) : (s.setLink x v).pt = s.pt := rfl
@[simp] theorem State.setLink_sm (s : State) (x : Axle) (v : AxleLink) : (s.setLink x v).sm = s.sm := rfl
@[simp] theorem State.setLink_tm (s : State) (x : Axle) (v : AxleLink) : (s.setLink x v).tm = s.tm := rfl
@[simp] theorem State.setLink_link (s : State) (x : Axle) (v : AxleLink) : (s.setLink x v).link = s.link.set x v := rfl
@[simp] theorem State.setLink_out (s : State) (x : Axle) (v : AxleLink) : (s.setLink x v).out = s.out := rfl
@[simp] theorem State.setLink_oc (s : State) (x : Axle) (v : AxleLink) : (s.setLink x v).oc = s.oc := rfl
@[simp] theorem State.setLink_fu (s : State) (x : Axle) (v : AxleLink) : (s.setLink x v).fu = s.fu := rfl
@[simp] theorem State.setLink_hp (s : State) (x : Axle) (v : AxleLink) : (s.setLink x v).hp = s.hp := rfl
@[simp] theorem State.setLink_tb (s : State) (x : Axle) (v : AxleLink) : (s.setLink x v).tb = s.tb := rfl
@[simp] theorem State.setLink_resetnLow (s : State) (x : Axle) (v : AxleLink) : (s.setLink x v).resetnLow = s.resetnLow := rfl
@[simp] theorem State.setLink_freeIndex (s : State) (x : Axle) (v : AxleLink) : (s.setLink x v).freeIndex = s.freeIndex := rfl
@[simp] theorem State.setLink_pending (s : State) (x : Axle) (v : AxleLink) : (s.setLink x v).pending = s.pending := rfl

end Sys2Proof.Machine
end

