-- ==== Sys2Proof/Laws/Only.lean ====
section
/-! SUPPORT. The algebra of frames: composing them, widening them, and reading a field off one. -/

namespace Sys2Proof.Machine

theorem Part.same_refl (p : Part) (s : State) : p.same s s := by
  cases p <;> simp [Part.same]

theorem Part.same_trans {p : Part} {s t u : State} (h : p.same s t) (k : p.same t u) : p.same s u := by
  cases p <;> simp_all [Part.same]

theorem OnlyChanges.refl (ps : List Part) (s : State) : OnlyChanges ps s s := fun p _ => p.same_refl s

theorem OnlyChanges.trans {ps : List Part} {s t u : State} (h : OnlyChanges ps s t) (k : OnlyChanges ps t u) :
    OnlyChanges ps s u := fun p hp => Part.same_trans (h p hp) (k p hp)

theorem OnlyChanges.mono {ps qs : List Part} {s t : State} (h : OnlyChanges ps s t) (sub : ps ⊆ qs) :
    OnlyChanges qs s t := fun p hp => h p fun hq => hp (sub hq)

/-- Two frames one after the other, each within `qs`. -/
theorem OnlyChanges.seq {ps ps' qs : List Part} {s t u : State} (h : OnlyChanges ps s t) (k : OnlyChanges ps' t u)
    (sub : ps ⊆ qs) (sub' : ps' ⊆ qs) : OnlyChanges qs s u := (h.mono sub).trans (k.mono sub')

theorem OnlyChanges.ite {ps : List Part} {s t u : State} {c : Prop} [Decidable c] (h : c → OnlyChanges ps s t)
    (k : ¬c → OnlyChanges ps s u) : OnlyChanges ps s (if c then t else u) := by
  by_cases hc : c
  · simpa [hc] using h hc
  · simpa [hc] using k hc

/-! ### The setters -/

theorem setSe_only (s : State) (v : SplitEngine) : OnlyChanges [.se] s (s.setSe v) := by
  intro p hp; cases p <;> simp_all [Part.same]

theorem setDi_only (s : State) (v : DemandIntake) : OnlyChanges [.di] s (s.setDi v) := by
  intro p hp; cases p <;> simp_all [Part.same]

theorem setPt_only (s : State) (v : ProfileTable) : OnlyChanges [.pt] s (s.setPt v) := by
  intro p hp; cases p <;> simp_all [Part.same]

theorem setOc_only (s : State) (v : OutputControl) : OnlyChanges [.oc] s (s.setOc v) := by
  intro p hp; cases p <;> simp_all [Part.same]

theorem setOut_only (s : State) (v : OutRecord) : OnlyChanges [.out] s (s.setOut v) := by
  intro p hp; cases p <;> simp_all [Part.same]

theorem setFu_only (s : State) (v : FaultUnit) : OnlyChanges [.fu] s (s.setFu v) := by
  intro p hp; cases p <;> simp_all [Part.same]

theorem setTb_only (s : State) (v : Timebase) : OnlyChanges [.tb] s (s.setTb v) := by
  intro p hp; cases p <;> simp_all [Part.same]

theorem setFreeIndex_only (s : State) (v : Nat) : OnlyChanges [.free] s (s.setFreeIndex v) := by
  intro p hp; cases p <;> simp_all [Part.same]

theorem setResetnLow_only (s : State) (v : Bool) : OnlyChanges [.resetn] s (s.setResetnLow v) := by
  intro p hp; cases p <;> simp_all [Part.same]

theorem setSm_only (s : State) (x : Axle) (v : SlipMonitor) : OnlyChanges [.sm x] s (s.setSm x v) := by
  intro p hp; cases p <;> simp_all [Part.same, ByAxle.get_set_of_ne]

theorem setTm_only (s : State) (x : Axle) (v : TrackingMonitor) : OnlyChanges [.tm x] s (s.setTm x v) := by
  intro p hp; cases p <;> simp_all [Part.same, ByAxle.get_set_of_ne]

/-- A link update changes the listed parts if, on that link, every other part agrees. -/
theorem setLink_only {ps : List Part} (s : State) (x : Axle) (v : AxleLink)
    (hline : .line x ∉ ps → v.inFlight = (s.link.get x).inFlight ∧ v.txBits = (s.link.get x).txBits
      ∧ v.waiting = (s.link.get x).waiting ∧ v.breakSending = (s.link.get x).breakSending
      ∧ v.tail = (s.link.get x).tail)
    (hseq : .seq x ∉ ps → v.frameSeq = (s.link.get x).frameSeq ∧ v.ring = (s.link.get x).ring
      ∧ v.lastStarted = (s.link.get x).lastStarted)
    (hservice : .service x ∉ ps → v.service = (s.link.get x).service)
    (hnotices : .notices x ∉ ps → v.notice = (s.link.get x).notice ∧ v.lostNotice = (s.link.get x).lostNotice
      ∧ v.ackCode = (s.link.get x).ackCode)
    (hrx : .rx x ∉ ps → v.partialBytes = (s.link.get x).partialBytes ∧ v.rxGapUs = (s.link.get x).rxGapUs
      ∧ v.lowLineUs = (s.link.get x).lowLineUs)
    (hstate : .linkState x ∉ ps → v.state = (s.link.get x).state)
    (hsync : .sync x ∉ ps → v.timer = (s.link.get x).timer ∧ v.recovery = (s.link.get x).recovery
      ∧ v.badRun = (s.link.get x).badRun)
    (hrecord : .record x ∉ ps → v.acceptedSinceReady = (s.link.get x).acceptedSinceReady
      ∧ v.lastStatus = (s.link.get x).lastStatus)
    (hcounters : .counters x ∉ ps → v.counters = (s.link.get x).counters) :
    OnlyChanges ps s (s.setLink x v) := by
  intro p hp
  cases p with
  | line y => by_cases h : y = x <;> simp_all [Part.same, ByAxle.get_set_of_ne]
  | seq y => by_cases h : y = x <;> simp_all [Part.same, ByAxle.get_set_of_ne]
  | service y => by_cases h : y = x <;> simp_all [Part.same, ByAxle.get_set_of_ne]
  | notices y => by_cases h : y = x <;> simp_all [Part.same, ByAxle.get_set_of_ne]
  | rx y => by_cases h : y = x <;> simp_all [Part.same, ByAxle.get_set_of_ne]
  | linkState y => by_cases h : y = x <;> simp_all [Part.same, ByAxle.get_set_of_ne]
  | sync y => by_cases h : y = x <;> simp_all [Part.same, ByAxle.get_set_of_ne]
  | record y => by_cases h : y = x <;> simp_all [Part.same, ByAxle.get_set_of_ne]
  | counters y => by_cases h : y = x <;> simp_all [Part.same, ByAxle.get_set_of_ne]
  | _ => simp [Part.same]

/-- A host port update changes the listed parts if every other part of it agrees. -/
theorem setHp_only {ps : List Part} (s : State) (v : HostPort)
    (htx : .tx ∉ ps → v.txQueue = s.hp.txQueue ∧ v.sending = s.hp.sending ∧ v.sendBits = s.hp.sendBits)
    (hskips : .skips ∉ ps → v.reportSkips = s.hp.reportSkips ∧ v.noticeSkips = s.hp.noticeSkips)
    (hreq : .requests ∉ ps → v.requestQueue = s.hp.requestQueue)
    (hdropped : .dropped ∉ ps → v.dropped = s.hp.dropped)
    (hframer : .framer ∉ ps → v.framer = s.hp.framer ∧ v.gapUs = s.hp.gapUs ∧ v.badFrames = s.hp.badFrames)
    (hparams : .params ∉ ps → v.params = s.hp.params)
    (hpart : .part ∉ ps → v.part = s.hp.part)
    (hcause : .cause ∉ ps → v.cause = s.hp.cause ∧ v.resetTaken = s.hp.resetTaken)
    (hsync : .syncPending ∉ ps → v.pendingSync = s.hp.pendingSync)
    (hlink : .hostLink ∉ ps → v.hostLinkLive = s.hp.hostLinkLive) :
    OnlyChanges ps s (s.setHp v) := by
  intro p hp; cases p <;> simp_all [Part.same]

/-- A Cap Table update changes the listed parts if the other one agrees. -/
theorem setCt_only {ps : List Part} (s : State) (v : CapTable) (hslots : .slots ∉ ps → v.slots = s.ct.slots)
    (hpool : .pool ∉ ps → v.pool = s.ct.pool) : OnlyChanges ps s (s.setCt v) := by
  intro p hp; cases p <;> simp_all [Part.same]

/-! ### Reading a field off a frame -/

section
variable {ps : List Part} {s t : State} (h : OnlyChanges ps s t)
include h

theorem OnlyChanges.se_eq (n : Part.se ∉ ps) : t.se = s.se := h .se n
theorem OnlyChanges.di_eq (n : Part.di ∉ ps) : t.di = s.di := h .di n
theorem OnlyChanges.slots_eq (n : Part.slots ∉ ps) : t.ct.slots = s.ct.slots := h .slots n
theorem OnlyChanges.pool_eq (n : Part.pool ∉ ps) : t.ct.pool = s.ct.pool := h .pool n
theorem OnlyChanges.pt_eq (n : Part.pt ∉ ps) : t.pt = s.pt := h .pt n
theorem OnlyChanges.sm_eq (x : Axle) (n : Part.sm x ∉ ps) : t.sm.get x = s.sm.get x := h (.sm x) n
theorem OnlyChanges.tm_eq (x : Axle) (n : Part.tm x ∉ ps) : t.tm.get x = s.tm.get x := h (.tm x) n
theorem OnlyChanges.out_eq (n : Part.out ∉ ps) : t.out = s.out := h .out n
theorem OnlyChanges.oc_eq (n : Part.oc ∉ ps) : t.oc = s.oc := h .oc n
theorem OnlyChanges.fu_eq (n : Part.fu ∉ ps) : t.fu = s.fu := h .fu n
theorem OnlyChanges.tb_eq (n : Part.tb ∉ ps) : t.tb = s.tb := h .tb n
theorem OnlyChanges.resetn_eq (n : Part.resetn ∉ ps) : t.resetnLow = s.resetnLow := h .resetn n
theorem OnlyChanges.free_eq (n : Part.free ∉ ps) : t.freeIndex = s.freeIndex := h .free n
theorem OnlyChanges.queue_eq (n : Part.queue ∉ ps) : t.pending = s.pending := h .queue n
theorem OnlyChanges.params_eq (n : Part.params ∉ ps) : t.hp.params = s.hp.params := h .params n
theorem OnlyChanges.part_eq (n : Part.part ∉ ps) : t.hp.part = s.hp.part := h .part n
theorem OnlyChanges.cause_eq (n : Part.cause ∉ ps) : t.hp.cause = s.hp.cause := (h .cause n).1
theorem OnlyChanges.resetTaken_eq (n : Part.cause ∉ ps) : t.hp.resetTaken = s.hp.resetTaken := (h .cause n).2
theorem OnlyChanges.pendingSync_eq (n : Part.syncPending ∉ ps) : t.hp.pendingSync = s.hp.pendingSync :=
  h .syncPending n
theorem OnlyChanges.requestQueue_eq (n : Part.requests ∉ ps) : t.hp.requestQueue = s.hp.requestQueue :=
  h .requests n
theorem OnlyChanges.dropped_eq (n : Part.dropped ∉ ps) : t.hp.dropped = s.hp.dropped := h .dropped n
theorem OnlyChanges.reportSkips_eq (n : Part.skips ∉ ps) : t.hp.reportSkips = s.hp.reportSkips := (h .skips n).1
theorem OnlyChanges.noticeSkips_eq (n : Part.skips ∉ ps) : t.hp.noticeSkips = s.hp.noticeSkips := (h .skips n).2
theorem OnlyChanges.txQueue_eq (n : Part.tx ∉ ps) : t.hp.txQueue = s.hp.txQueue := (h .tx n).1
theorem OnlyChanges.sending_eq (n : Part.tx ∉ ps) : t.hp.sending = s.hp.sending := (h .tx n).2.1
theorem OnlyChanges.badFrames_eq (n : Part.framer ∉ ps) : t.hp.badFrames = s.hp.badFrames := (h .framer n).2.2
theorem OnlyChanges.linkState_eq (x : Axle) (n : Part.linkState x ∉ ps) :
    (t.link.get x).state = (s.link.get x).state := h (.linkState x) n
theorem OnlyChanges.linkTimer_eq (x : Axle) (n : Part.sync x ∉ ps) : (t.link.get x).timer = (s.link.get x).timer :=
  (h (.sync x) n).1
theorem OnlyChanges.recovery_eq (x : Axle) (n : Part.sync x ∉ ps) :
    (t.link.get x).recovery = (s.link.get x).recovery := (h (.sync x) n).2.1
theorem OnlyChanges.badRun_eq (x : Axle) (n : Part.sync x ∉ ps) : (t.link.get x).badRun = (s.link.get x).badRun :=
  (h (.sync x) n).2.2
theorem OnlyChanges.ring_eq (x : Axle) (n : Part.seq x ∉ ps) : (t.link.get x).ring = (s.link.get x).ring :=
  (h (.seq x) n).2.1
end

end Sys2Proof.Machine
end

