-- ==== Sys2Proof/Laws/Port.lean ====
section
/-! SUPPORT. The transmit side of the host port: each operation changes only that side, and what it sends. -/

namespace Sys2Proof.Machine

theorem startHostFrame_only (s : State) : OnlyChanges [.tx] s (startHostFrame s) := by
  unfold startHostFrame
  split
  · apply setHp_only <;> simp
  · exact .refl _ _

/-- A frame that starts leaves the queue and is being sent: the frames on their way out are the same. -/
@[simp] theorem outbox_startHostFrame (s : State) : outbox (startHostFrame s) = outbox s := by
  unfold startHostFrame
  split
  · rename_i h₁ h₂; simp [outbox, h₁, h₂]
  · rfl

theorem startHostFrame_length (s : State) : (startHostFrame s).hp.txQueue.length ≤ s.hp.txQueue.length := by
  unfold startHostFrame
  split
  · rename_i h₁ h₂; simp [h₂]
  · exact Nat.le_refl _

theorem enqueueFrame_only (f : HostFrame) (s : State) : OnlyChanges [.tx] s (enqueueFrame f s) :=
  .trans (by apply setHp_only <;> simp) (startHostFrame_only _)

/-- A frame that enters the transmit queue is the last of the frames on their way out (R161). -/
@[simp] theorem outbox_enqueueFrame (f : HostFrame) (s : State) : outbox (enqueueFrame f s) = outbox s ++ [f] := by
  simp [enqueueFrame, outbox, -List.append_assoc]
  have := outbox_startHostFrame (s.setHp { s.hp with txQueue := s.hp.txQueue ++ [f] })
  simpa [outbox] using this

theorem enqueueFrame_length (f : HostFrame) (s : State) :
    (enqueueFrame f s).hp.txQueue.length ≤ s.hp.txQueue.length + 1 := by
  have := startHostFrame_length (s.setHp { s.hp with txQueue := s.hp.txQueue ++ [f] })
  simpa [enqueueFrame] using this

theorem offerReport_only (p : List Byte) (s : State) : OnlyChanges [.tx, .skips] s (offerReport p s) := by
  unfold offerReport
  split
  · exact (enqueueFrame_only _ _).mono (by simp)
  · apply setHp_only <;> simp

theorem offerNotice_only (p : List Byte) (s : State) : OnlyChanges [.tx, .skips] s (offerNotice p s) := by
  unfold offerNotice
  split
  · exact (enqueueFrame_only _ _).mono (by simp)
  · apply setHp_only <;> simp

theorem admits_empty {s : State} (h : admitsUnsolicited s = true) : s.hp.txQueue = [] := by
  simp [admitsUnsolicited] at h
  exact h.1.1

/-- An offer leaves the transmit queue no longer than it was, or at one frame. -/
theorem offerReport_length (p : List Byte) (s : State) :
    (offerReport p s).hp.txQueue.length ≤ max 1 s.hp.txQueue.length := by
  unfold offerReport
  split
  · rename_i h
    have := enqueueFrame_length ⟨0xE0#8, 0, p⟩ s
    simp [admits_empty h] at this ⊢; omega
  · exact Nat.le_max_right _ _

theorem offerNotice_length (p : List Byte) (s : State) :
    (offerNotice p s).hp.txQueue.length ≤ max 1 s.hp.txQueue.length := by
  unfold offerNotice
  split
  · rename_i h
    have := enqueueFrame_length ⟨0xE1#8, 0, p⟩ s
    simp [admits_empty h] at this ⊢; omega
  · exact Nat.le_max_right _ _

theorem reply_only (f : HostFrame) (r : ResultCode) (p : List Byte) (s : State) :
    OnlyChanges [.tx] s (reply f r p s) := enqueueFrame_only _ _

@[simp] theorem outbox_reply (f : HostFrame) (r : ResultCode) (p : List Byte) (s : State) :
    outbox (reply f r p s) = outbox s ++ [replyFrame f r p] := outbox_enqueueFrame _ _

theorem reply_length (f : HostFrame) (r : ResultCode) (p : List Byte) (s : State) :
    (reply f r p s).hp.txQueue.length ≤ s.hp.txQueue.length + 1 := enqueueFrame_length _ _

/-- Two states with the same transmit side have the same frames on their way out. -/
theorem OnlyChanges.outbox_eq {ps : List Part} {s t : State} (h : OnlyChanges ps s t) (n : Part.tx ∉ ps) :
    outbox t = outbox s := by
  simp [outbox, h.txQueue_eq n, h.sending_eq n]

end Sys2Proof.Machine
end

