-- ==== Sys2Proof/Laws/Flags.lean ====
section
/-! SUPPORT. The Fault Unit: get after set, what a take does to a record, what a signal changes. -/

namespace Sys2Proof.Machine

/-! ### Records -/

@[simp] theorem FaultRecords.get_set_same (r : FaultRecords) (c : FaultCode) (v : FaultRecord) :
    (r.set c v).get c = v := by
  cases c <;> rfl

theorem FaultRecords.get_set_of_ne (r : FaultRecords) {c d : FaultCode} (v : FaultRecord) (h : d ≠ c) :
    (r.set c v).get d = r.get d := by
  cases c <;> cases d <;> first | rfl | exact absurd rfl h

theorem FaultRecords.get_set (r : FaultRecords) (c d : FaultCode) (v : FaultRecord) :
    (r.set c v).get d = if d = c then v else r.get d := by
  by_cases h : d = c
  · subst h; simp
  · simp [h, r.get_set_of_ne v h]

theorem mem_faultCodes (c : FaultCode) : c ∈ faultCodes := by cases c <;> decide

@[simp] theorem FaultRecord.take_masked (r : FaultRecord) (ch : FaultChange) : (r.take ch).masked = r.masked := by
  cases ch <;> simp [FaultRecord.take, FaultRecord.fieldsAfter] <;> split <;> rfl

/-- A take never clears latched (R143). -/
theorem FaultRecord.take_latched (r : FaultRecord) (ch : FaultChange) :
    (r.take ch).latched = (r.latched || r.occurs ch) := by
  cases ch <;> simp only [FaultRecord.take, FaultRecord.fieldsAfter] <;> split <;> simp_all

theorem FaultRecord.take_count (r : FaultRecord) (ch : FaultChange) :
    (r.take ch).count = if r.occurs ch then satInc 255 r.count else r.count := by
  cases ch <;> simp only [FaultRecord.take, FaultRecord.fieldsAfter] <;> split <;> simp_all

@[simp] theorem faultRecord_setFaultRecord_same (c : FaultCode) (r : FaultRecord) (s : State) :
    faultRecord c (setFaultRecord c r s) = r := by
  simp [faultRecord, setFaultRecord]

/-! ### What each operation changes -/

theorem setFaultRecord_only (c : FaultCode) (r : FaultRecord) (s : State) :
    OnlyChanges [.fu] s (setFaultRecord c r s) := setFu_only _ _

theorem takeAtRecord_only (c : FaultCode) (ch : FaultChange) (s : State) :
    OnlyChanges [.fu] s (takeAtRecord c ch s) := setFu_only _ _

theorem updateAttn_only (s : State) : OnlyChanges [.fu] s (updateAttn s) := setFu_only _ _

theorem considerNotice_only (c : FaultCode) (s : State) : OnlyChanges [.tx, .skips] s (considerNotice c s) := by
  unfold considerNotice
  exact .ite (fun _ => offerNotice_only _ _) fun _ => .refl _ _

theorem actOutward_only (c : FaultCode) (old : FaultRecord) (s : State) :
    OnlyChanges [.fu, .tx, .skips] s (actOutward c old s) := by
  unfold actOutward
  have h : OnlyChanges [.fu, .tx, .skips] s (updateAttn s) := (updateAttn_only s).mono (by simp)
  exact .ite (fun _ => h.trans ((considerNotice_only _ _).mono (by simp))) fun _ => h

/-- A signal that gives no forcing notice changes the Fault Unit and may send or skip one notice; nothing else. -/
theorem signalReporting_only (c : FaultCode) (ch : FaultChange) (s : State) :
    OnlyChanges [.fu, .tx, .skips] s (signalReporting c ch s) :=
  ((takeAtRecord_only c ch s).mono (by simp)).trans (actOutward_only _ _ _)

@[simp] theorem updateAttn_records (s : State) : (updateAttn s).fu.records = s.fu.records := rfl

@[simp] theorem actOutward_records (c : FaultCode) (old : FaultRecord) (s : State) :
    (actOutward c old s).fu.records = s.fu.records := by
  unfold actOutward
  dsimp only
  split
  · rw [(considerNotice_only _ _).fu_eq (by simp)]; rfl
  · rfl

@[simp] theorem signalReporting_records (c : FaultCode) (ch : FaultChange) (s : State) :
    (signalReporting c ch s).fu.records = s.fu.records.set c ((faultRecord c s).take ch) := by
  simp [signalReporting, takeAtRecord, setFaultRecord]

/-- After FU has acted, ATTN stands as R145 says. -/
theorem actOutward_attn (c : FaultCode) (old : FaultRecord) (s : State) :
    (actOutward c old s).fu.attn = attnLevel s.hp.part s.fu.records := by
  unfold actOutward
  dsimp only
  split
  · rw [(considerNotice_only _ _).fu_eq (by simp)]; rfl
  · rfl

theorem signalReporting_attn (c : FaultCode) (ch : FaultChange) (s : State) :
    (signalReporting c ch s).fu.attn = attnLevel s.hp.part (signalReporting c ch s).fu.records := by
  simp [signalReporting, actOutward_attn, takeAtRecord, setFaultRecord]

theorem considerNotice_length (c : FaultCode) (s : State) :
    (considerNotice c s).hp.txQueue.length ≤ max 1 s.hp.txQueue.length := by
  unfold considerNotice
  dsimp only
  split
  · exact offerNotice_length _ _
  · omega

theorem actOutward_length (c : FaultCode) (old : FaultRecord) (s : State) :
    (actOutward c old s).hp.txQueue.length ≤ max 1 s.hp.txQueue.length := by
  unfold actOutward
  dsimp only
  split
  · exact considerNotice_length _ _
  · exact Nat.le_max_right _ _

theorem signalReporting_length (c : FaultCode) (ch : FaultChange) (s : State) :
    (signalReporting c ch s).hp.txQueue.length ≤ max 1 s.hp.txQueue.length := by
  simpa [signalReporting, takeAtRecord, setFaultRecord] using
    actOutward_length c (faultRecord c s) (takeAtRecord c ch s)

/-- ATTN's level in the words of R145. -/
theorem attnLevel_iff (part : PartState) (r : FaultRecords) :
    attnLevel part r = true ↔ part = .standby ∨ ∃ c, (r.get c).latched = true ∧ (r.get c).masked = false := by
  simp only [attnLevel, FaultRecords.anyUnmaskedLatched, Bool.or_eq_true, decide_eq_true_eq, List.any_eq_true,
    Bool.and_eq_true, Bool.not_eq_true']
  constructor
  · rintro (h | ⟨c, -, h⟩)
    · exact .inl h
    · exact .inr ⟨c, h⟩
  · rintro (h | ⟨c, h⟩)
    · exact .inl h
    · exact .inr ⟨c, mem_faultCodes c, h⟩

end Sys2Proof.Machine
end

