-- ==== Sys2Proof/Laws/Ops.lean ====
section
/-! SUPPORT. The shared operations: what each changes, and what each leaves. -/

namespace Sys2Proof.Machine

/-! ### Cap Table claims -/

theorem setSlot_only (src : InternalSource) (x : Axle) (d : Direction) (v : Option CapSlot) (s : State) :
    OnlyChanges [.slots] s (setSlot src x d v s) := by
  apply setCt_only <;> simp

theorem setPool_only (pool : List HostEntry) (s : State) : OnlyChanges [.pool] s (s.setCt { s.ct with pool := pool }) := by
  apply setCt_only <;> simp

theorem postInternal_only (src : InternalSource) (x : Axle) (d : Direction) (n : Nat) (s : State) :
    OnlyChanges [.slots, .fu, .tx, .skips] s (postInternal src x d n s) := by
  unfold postInternal
  have h := (setSlot_only src x d (some ⟨min n 8000, s.se.periodNumber⟩) s).mono (qs := [.slots, .fu, .tx, .skips]) (by simp)
  exact .ite (fun _ => h.trans ((signalReporting_only _ _ _).mono (by simp))) fun _ => h

theorem withdrawInternal_only (src : InternalSource) (x : Axle) (d : Direction) (s : State) :
    OnlyChanges [.slots, .fu, .tx, .skips] s (withdrawInternal src x d s) := by
  unfold withdrawInternal
  have h := (setSlot_only src x d none s).mono (qs := [.slots, .fu, .tx, .skips]) (by simp)
  exact .ite (fun _ => h.trans ((signalReporting_only _ _ _).mono (by simp))) fun _ => h

/-- A post by a source other than TRACK gives no signal (R44). -/
theorem postInternal_eq_setSlot {src : InternalSource} (h : src ≠ .track) (x : Axle) (d : Direction) (n : Nat) (s : State) :
    postInternal src x d n s = setSlot src x d (some ⟨min n 8000, s.se.periodNumber⟩) s := by
  simp [postInternal, h]

/-- A withdrawal by a source other than TRACK gives no signal (R44). -/
theorem withdrawInternal_eq_setSlot {src : InternalSource} (h : src ≠ .track) (x : Axle) (d : Direction) (s : State) :
    withdrawInternal src x d s = setSlot src x d none s := by
  simp [withdrawInternal, h]

/-- The slots after a post, whatever it signals (R44). -/
@[simp] theorem postInternal_slots (src : InternalSource) (x : Axle) (d : Direction) (n : Nat) (s : State) :
    (postInternal src x d n s).ct.slots = s.ct.slots.set src x d (some ⟨min n 8000, s.se.periodNumber⟩) := by
  unfold postInternal
  dsimp only
  split
  · rw [(signalReporting_only _ _ _).slots_eq (by simp)]; rfl
  · rfl

/-- The slots after a withdrawal, whatever it signals (R44). -/
@[simp] theorem withdrawInternal_slots (src : InternalSource) (x : Axle) (d : Direction) (s : State) :
    (withdrawInternal src x d s).ct.slots = s.ct.slots.set src x d none := by
  unfold withdrawInternal
  dsimp only
  split
  · rw [(signalReporting_only _ _ _).slots_eq (by simp)]; rfl
  · rfl

@[simp] theorem InternalSlots.get_set_same (t : InternalSlots) (src : InternalSource) (x : Axle) (d : Direction)
    (v : Option CapSlot) : (t.set src x d v).get src x d = v := by
  cases src <;> cases x <;> cases d <;> rfl

theorem InternalSlots.get_set_of_ne (t : InternalSlots) {src src' : InternalSource} {x x' : Axle} {d d' : Direction}
    (v : Option CapSlot) (h : ¬(src' = src ∧ x' = x ∧ d' = d)) : (t.set src x d v).get src' x' d' = t.get src' x' d' := by
  cases src <;> cases src' <;> cases x <;> cases x' <;> cases d <;> cases d' <;>
    first | rfl | exact absurd ⟨rfl, rfl, rfl⟩ h

theorem InternalSlots.get_set (t : InternalSlots) (src src' : InternalSource) (x x' : Axle) (d d' : Direction)
    (v : Option CapSlot) :
    (t.set src x d v).get src' x' d' = if src' = src ∧ x' = x ∧ d' = d then v else t.get src' x' d' := by
  by_cases h : src' = src ∧ x' = x ∧ d' = d
  · obtain ⟨rfl, rfl, rfl⟩ := h; simp
  · simp [h, t.get_set_of_ne v h]

/-! ### The leaving-ARMED notices -/

theorem smLeavesArmed_only (x : Axle) (s : State) :
    OnlyChanges [.sm x, .slots, .fu, .tx, .skips] s (smLeavesArmed x s) := by
  unfold smLeavesArmed
  dsimp only
  have h : OnlyChanges [.sm x, .slots, .fu, .tx, .skips] s
      (match (s.sm.get x).cap, (s.sm.get x).counting with
       | some _, some d => withdrawInternal .slip x d s
       | _, _ => s) := by
    split
    · exact (withdrawInternal_only _ _ _ _).mono (by simp)
    · exact .refl _ _
  have k := h.trans ((setSm_only _ x ⟨.idle, (s.sm.get x).monitored, none, 0, none, false⟩).mono (by simp))
  exact .ite (fun _ => k.trans ((signalReporting_only _ _ _).mono (by simp))) fun _ => k

/-- What the notice leaves of a Slip Monitor (R95). -/
theorem smLeavesArmed_sm (x : Axle) (s : State) :
    (smLeavesArmed x s).sm.get x = ⟨.idle, (s.sm.get x).monitored, none, 0, none, false⟩ := by
  unfold smLeavesArmed
  dsimp only
  split
  · rw [(signalReporting_only _ _ _).sm_eq x (by simp)]; simp
  · simp

theorem tmLeavesArmed_only (x : Axle) (s : State) : OnlyChanges [.tm x] s (tmLeavesArmed x s) := setTm_only _ _ _

theorem notifyLeavingArmed_only (s : State) :
    OnlyChanges [.sm .front, .sm .rear, .tm .front, .tm .rear, .slots, .fu, .tx, .skips] s (notifyLeavingArmed s) := by
  unfold notifyLeavingArmed
  exact ((((smLeavesArmed_only .front s).mono (by simp)).trans ((smLeavesArmed_only .rear _).mono (by simp))).trans
    ((tmLeavesArmed_only .front _).mono (by simp))).trans ((tmLeavesArmed_only .rear _).mono (by simp))

/-! ### The trip -/

theorem torqueOffBreak_only (x : Axle) (s : State) : OnlyChanges [.line x] s (torqueOffBreak x s) := by
  unfold torqueOffBreak
  apply setLink_only <;> simp

theorem trip_only (cause : TripCause) (s : State) : OnlyChanges tripParts s (trip cause s) := by
  have brk (v : OutputControl) (t : State) (h : OnlyChanges tripParts s t) :
      OnlyChanges tripParts s (torqueOffBreak .rear (torqueOffBreak .front t)) :=
    (h.trans ((torqueOffBreak_only .front _).mono (by simp [tripParts]))).trans
      ((torqueOffBreak_only .rear _).mono (by simp [tripParts]))
  have oc (v : OutputControl) : OnlyChanges tripParts s (s.setOc v) := (setOc_only s v).mono (by simp [tripParts])
  unfold trip
  split
  · exact .refl _ _
  · split
    · exact .refl _ _
    · exact brk s.oc _ (oc _)
    · exact brk s.oc _ (oc _)
    · exact brk s.oc _ ((oc _).trans ((notifyLeavingArmed_only _).mono (by simp [tripParts])))

theorem signal_only (c : FaultCode) (ch : FaultChange) (s : State) : OnlyChanges tripParts s (signal c ch s) := by
  unfold signal
  dsimp only
  have h := (takeAtRecord_only c ch s).mono (qs := tripParts) (by simp [tripParts])
  have k : OnlyChanges tripParts s (if givesForcingNotice c (faultRecord c s) ch = true then trip (.fault c) (takeAtRecord c ch s)
      else takeAtRecord c ch s) := .ite (fun _ => h.trans (trip_only _ _)) fun _ => h
  exact k.trans ((actOutward_only _ _ _).mono (by simp [tripParts]))

/-! ### Link state changes -/

theorem outClaim_only (x : Axle) (b : Bool) (s : State) : OnlyChanges (.out :: tripParts) s (outClaim x b s) := by
  unfold outClaim
  have h (v : OutRecord) := (setOut_only s v).mono (qs := .out :: tripParts) (by simp)
  exact .ite (fun _ => h _) fun _ => (h _).trans ((signal_only _ _ _).mono (by simp))

theorem linkLeftSynced_only (s : State) : OnlyChanges [.oc] s (linkLeftSynced s) := by
  unfold linkLeftSynced
  exact .ite (fun _ => setOc_only _ _) fun _ => .refl _ _

theorem postLinkCaps_only (x : Axle) (s : State) : OnlyChanges [.slots, .fu, .tx, .skips] s (postLinkCaps x s) :=
  (postInternal_only _ _ _ _ _).trans (postInternal_only _ _ _ _ _)

theorem withdrawLinkCaps_only (x : Axle) (s : State) :
    OnlyChanges [.slots, .fu, .tx, .skips] s (withdrawLinkCaps x s) :=
  (withdrawInternal_only _ _ _ _).trans (withdrawInternal_only _ _ _ _)

/-- A link state change changes that link's state, the out record, and what its claims and signals reach. -/
theorem moveLink_only (x : Axle) (new : LinkState) (s : State) :
    OnlyChanges (.linkState x :: .out :: tripParts) s (moveLink x new s) := by
  unfold moveLink
  dsimp only
  have base : OnlyChanges (.linkState x :: .out :: tripParts) s (s.setLink x { s.link.get x with state := new }) := by
    apply setLink_only <;> simp
  have caps : ∀ t, OnlyChanges [.slots, .fu, .tx, .skips] t (postLinkCaps x t)
      ∧ OnlyChanges [.slots, .fu, .tx, .skips] t (withdrawLinkCaps x t) :=
    fun t => ⟨postLinkCaps_only x t, withdrawLinkCaps_only x t⟩
  have sig (c : FaultCode) (ch : FaultChange) (t : State) (h : OnlyChanges (.linkState x :: .out :: tripParts) s t) :
      OnlyChanges (.linkState x :: .out :: tripParts) s (signalReporting c ch t) :=
    h.trans ((signalReporting_only _ _ _).mono (by simp [tripParts]))
  have s2 := OnlyChanges.ite (c := (!(s.link.get x).state.isBlocked && new.isBlocked) = true)
    (fun _ => base.trans ((caps _).1.mono (by simp [tripParts]))) fun _ =>
      OnlyChanges.ite (c := ((s.link.get x).state.isBlocked && !new.isBlocked) = true)
        (fun _ => base.trans ((caps _).2.mono (by simp [tripParts]))) fun _ => base
  refine .ite (fun _ => .trans ?_ ((linkLeftSynced_only _).mono (by simp [tripParts]))) fun _ => ?_
  all_goals
    refine .ite (fun _ => ?_) fun _ => .trans ?_ ((outClaim_only _ _ _).mono (by simp))
    all_goals
      refine .ite (fun _ => sig _ _ _ ?_) fun _ => ?_
      all_goals
        refine .ite (fun _ => sig _ _ _ ?_) fun _ => ?_
        all_goals
          refine .ite (fun _ => sig _ _ _ ?_) fun _ => ?_
          all_goals exact .ite (fun _ => sig _ _ _ s2) fun _ => s2

/-- A property that the link's new state has, and that every claim and signal of a link state change keeps, holds after the
change, whatever is taken between the claims. -/
theorem moveLink_keeps {P : State → Prop} {g : Gaps} (x : Axle) (new : LinkState) (s : State)
    (base : P (s.setLink x { s.link.get x with state := new }))
    (post : ∀ t, P t → P (postLinkCaps x t g)) (withdraw : ∀ t, P t → P (withdrawLinkCaps x t g))
    (sig : ∀ c b t, P t → P (signalReporting c (.live b) t))
    (claim : ∀ b t, P t → P (outClaim x b t g)) (left : ∀ t, P t → P (linkLeftSynced t)) : P (moveLink x new s g) := by
  have ite {c : Prop} [Decidable c] {t u : State} (h : P t) (k : P u) : P (if c then t else u) := by
    split <;> assumption
  unfold moveLink
  dsimp only
  have s2 : P (if (!(s.link.get x).state.isBlocked && new.isBlocked) = true then
        postLinkCaps x (s.setLink x { s.link.get x with state := new }) g
      else if ((s.link.get x).state.isBlocked && !new.isBlocked) = true then
        withdrawLinkCaps x (s.setLink x { s.link.get x with state := new }) g
      else s.setLink x { s.link.get x with state := new }) := ite (post _ base) (ite (withdraw _ base) base)
  have s3 := ite (c := (s.link.get x).state = .lost ∧ new ≠ .lost) (sig (linkLostFault x) false _ s2) s2
  have s4 := ite (c := (s.link.get x).state = .broken ∧ new ≠ .broken) (sig (linkBreakFault x) false _ s3) s3
  have s5 := ite (c := (s.link.get x).state ≠ .lost ∧ new = .lost) (sig (linkLostFault x) true _ s4) s4
  have s6 := ite (c := (s.link.get x).state ≠ .broken ∧ new = .broken) (sig (linkBreakFault x) true _ s5) s5
  have s7 := ite (c := (s.link.get x).state.isOut = new.isOut) s6 (claim new.isOut _ s6)
  exact ite (left _ s7) s7

/-! ### HOST_LINK and the requests -/

theorem evaluateHostLink_only (s : State) : OnlyChanges [.hostLink, .fu, .tx, .skips] s (evaluateHostLink s) := by
  unfold evaluateHostLink
  refine .ite (fun _ => .refl _ _) fun _ => .trans ?_ ((signalReporting_only _ _ _).mono (by simp))
  apply setHp_only <;> simp

theorem popRequest_only (s : State) : OnlyChanges [.requests] s (popRequest s) := by
  apply setHp_only <;> simp

@[simp] theorem popRequest_queue (s : State) : (popRequest s).hp.requestQueue = s.hp.requestQueue.tail := rfl

end Sys2Proof.Machine
end

