-- ==== Sys2Proof/Laws/Monitors.lean ====
section
/-! SUPPORT. The monitors: what each take changes. -/

namespace Sys2Proof.Machine

/-- What a Slip Monitor may change of the state (R84 to R96). -/
def smParts (x : Axle) : List Part := [.sm x, .slots, .fu, .tx, .skips]

/-- What a Tracking Monitor may change of the state (R98 to R100). -/
def tmParts (x : Axle) : List Part := [.tm x, .slots, .fu, .tx, .skips, .counters x]

theorem setSm_smParts (s : State) (x : Axle) (v : SlipMonitor) : OnlyChanges (smParts x) s (s.setSm x v) :=
  (setSm_only s x v).mono (by simp [smParts])

theorem smRelease_only (x : Axle) (d : Direction) (s : State) : OnlyChanges (smParts x) s (smRelease x d s) := by
  unfold smRelease
  exact (((withdrawInternal_only _ _ _ _).mono (by simp [smParts])).trans (setSm_smParts _ _ _)).trans
    ((signalReporting_only _ _ _).mono (by simp [smParts]))

theorem smDirectionChange_only (x : Axle) (d : Direction) (s : State) :
    OnlyChanges (smParts x) s (smDirectionChange x d s) := by
  unfold smDirectionChange
  split
  · exact .refl _ _
  · exact setSm_smParts _ _ _
  · exact smRelease_only _ _ _
  · exact smRelease_only _ _ _

theorem smDirection_only (x : Axle) (dir : Int) (s : State) : OnlyChanges (smParts x) s (smDirection x dir s) := by
  unfold smDirection
  dsimp only
  split
  · exact setSm_smParts _ _ _
  · exact (setSm_smParts _ _ _).trans (setSm_smParts _ _ _)
  · exact .ite (fun _ => setSm_smParts _ _ _) fun _ =>
      ((setSm_smParts _ _ _).trans (smDirectionChange_only _ _ _)).trans (setSm_smParts _ _ _)

theorem smPost_only (x : Axle) (d : Direction) (m : SlipMonitor) (cap : Nat) (s : State) :
    OnlyChanges (smParts x) s (smPost x d m cap s) :=
  (setSm_smParts _ _ _).trans ((postInternal_only _ _ _ _ _).mono (by simp [smParts]))

theorem smGrip_only (x : Axle) (d : Direction) (b : Band) (torque : Int) (s : State) :
    OnlyChanges (smParts x) s (smGrip x d b torque s) := by
  unfold smGrip
  dsimp only
  split
  · exact .ite (fun _ => (smPost_only _ _ _ _ _).trans ((signalReporting_only _ _ _).mono (by simp [smParts])))
      fun _ => setSm_smParts _ _ _
  · exact setSm_smParts _ _ _
  · exact setSm_smParts _ _ _

theorem smSlip_only (x : Axle) (d : Direction) (b : Band) (s : State) : OnlyChanges (smParts x) s (smSlip x d b s) := by
  unfold smSlip
  split
  · exact smPost_only _ _ _ _ _
  · exact .refl _ _
  · exact setSm_smParts _ _ _

theorem smRecover_only (x : Axle) (d : Direction) (b : Band) (s : State) :
    OnlyChanges (smParts x) s (smRecover x d b s) := by
  unfold smRecover
  dsimp only
  split
  · exact .ite (fun _ => smRelease_only _ _ _) fun _ => smPost_only _ _ _ _ _
  · exact .refl _ _
  · exact smPost_only _ _ _ _ _

/-- A frame handed to a Slip Monitor changes that monitor, its SLIP entry and its condition. -/
theorem smFrame_only (x : Axle) (f : StatusFrame) (st : LinkState) (s : State) :
    OnlyChanges (smParts x) s (smFrame x f st s) := by
  unfold smFrame
  refine .ite (fun _ => ?_) fun _ => .refl _ _
  dsimp only
  split
  · exact setSm_smParts _ _ _
  · exact smGrip_only _ _ _ _ _
  · exact smSlip_only _ _ _ _
  · exact smRecover_only _ _ _ _

theorem countStaleEcho_only (x : Axle) (s : State) : OnlyChanges [.counters x] s (countStaleEcho x s) := by
  unfold countStaleEcho
  apply setLink_only <;> simp

theorem postTrack_only (x : Axle) (s : State) : OnlyChanges [.slots, .fu, .tx, .skips] s (postTrack x s) :=
  (postInternal_only _ _ _ _ _).trans (postInternal_only _ _ _ _ _)

theorem tmJudge_only (x : Axle) (a c : Int) (s : State) : OnlyChanges (tmParts x) s (tmJudge x a c s) := by
  unfold tmJudge
  dsimp only
  have h (v : TrackingMonitor) := (setTm_only s x v).mono (qs := tmParts x) (by simp [tmParts])
  exact .ite (fun _ => .ite (fun _ => (h _).trans ((postTrack_only _ _).mono (by simp [tmParts]))) fun _ => h _)
    fun _ => h _

/-- A frame handed to a Tracking Monitor changes that monitor, the TRACK entries and condition, or the stale-echo
counter. -/
theorem tmFrame_only (x : Axle) (f : StatusFrame) (s : State) : OnlyChanges (tmParts x) s (tmFrame x f s) := by
  unfold tmFrame
  split
  · exact (countStaleEcho_only _ _).mono (by simp [tmParts])
  · exact .ite (fun _ => tmJudge_only _ _ _ _) fun _ => .refl _ _

end Sys2Proof.Machine
end

