-- ==== Sys2Proof/Laws/Links.lean ====
section
/-! SUPPORT. The axle links: what each operation changes, and that a link's operation leaves the other link alone. -/

namespace Sys2Proof.Machine

/-! ### Transmitting -/

/-- A frame start changes the line, the history ring, the service slot and the counters of its link. -/
theorem startFrame_only (x : Axle) (f : FormedFrame) (s : State) :
    OnlyChanges [.line x, .seq x, .service x, .counters x] s (startFrame x f s) := by
  unfold startFrame
  dsimp only
  apply setLink_only <;> simp

theorem takeIssue_only (x : Axle) (i : Issue) (s : State) :
    OnlyChanges [.line x, .seq x, .service x, .counters x] s (takeIssue x i s) := by
  unfold takeIssue
  dsimp only
  refine .ite (fun _ => .trans ?_ (startFrame_only _ _ _)) fun _ => ?_
  · apply setLink_only <;> simp
  · split <;> (apply setLink_only <;> simp)

theorem startWaiting_only (x : Axle) (s : State) :
    OnlyChanges [.line x, .seq x, .service x, .counters x] s (startWaiting x s) := by
  unfold startWaiting
  dsimp only
  split
  · exact .refl _ _
  · refine .trans ?_ (startFrame_only _ _ _)
    apply setLink_only <;> simp

theorem disarmNotice_only (x : Axle) (s : State) : OnlyChanges [.line x] s (disarmNotice x s) := by
  unfold disarmNotice
  apply setLink_only <;> simp

theorem freeLine_only (x : Axle) (s : State) : OnlyChanges [.line x] s (freeLine x s) := by
  unfold freeLine
  apply setLink_only <;> simp

theorem frameCompletes_only (x : Axle) (s : State) :
    OnlyChanges [.line x, .seq x, .service x, .counters x] s (frameCompletes x s) := by
  unfold frameCompletes
  refine .ite (fun _ => ?_) fun _ => .refl _ _
  dsimp only
  split
  · exact ((freeLine_only x s).mono (by simp)).trans (startWaiting_only _ _)
  · apply setLink_only <;> (unfold tailFrameEnds; split <;> simp)

theorem breakEnds_only (x : Axle) (s : State) :
    OnlyChanges [.line x, .seq x, .service x, .counters x] s (breakEnds x s) := by
  unfold breakEnds
  dsimp only
  refine .ite (fun _ => .trans ?_ (startWaiting_only _ _)) fun _ => ?_
  · apply setLink_only <;> simp
  · apply setLink_only <;> (unfold tailBreakEnds; split <;> simp)

/-! ### Receiving -/

/-- What the receive side of a link may change: the link itself, its claims, and what they reach. -/
def rxParts (x : Axle) : List Part :=
  [.rx x, .sync x, .linkState x, .record x, .notices x, .service x, .counters x, .out] ++ tripParts

theorem takeNotice_only (x : Axle) (code : Byte) (arg : Nat) (s : State) :
    OnlyChanges [.notices x, .counters x, .fu, .tx, .skips] s (takeNotice x code arg s) := by
  have note (v : AxleLink) (h : v = { s.link.get x with notice := v.notice, lostNotice := v.lostNotice, ackCode := v.ackCode, counters := v.counters }) :
      OnlyChanges [.notices x, .counters x, .fu, .tx, .skips] s (s.setLink x v) := by
    rw [h]; apply setLink_only <;> simp
  unfold takeNotice
  dsimp only
  refine .ite (fun _ => note _ rfl) fun _ => ?_
  split
  · exact note _ rfl
  · exact .ite (fun _ => note _ rfl) fun _ => (note _ rfl).trans ((signalReporting_only _ _ _).mono (by simp))

theorem takeEcho_only (x : Axle) (echo : Byte) (s : State) : OnlyChanges [.service x] s (takeEcho x echo s) := by
  unfold takeEcho
  refine .ite (fun _ => ?_) fun _ => .refl _ _
  apply setLink_only <;> simp

theorem acceptState_only (x : Axle) (s : State) :
    OnlyChanges ([.sync x, .linkState x, .out] ++ tripParts) s (acceptState x s) := by
  have move (t : State) (h : OnlyChanges ([.sync x, .linkState x, .out] ++ tripParts) s t) :
      OnlyChanges ([.sync x, .linkState x, .out] ++ tripParts) s (moveLink x .synced t) :=
    h.trans ((moveLink_only _ _ _).mono (by simp [tripParts]))
  have rec' (n : Nat) : OnlyChanges ([.sync x, .linkState x, .out] ++ tripParts) s
      (s.setLink x { s.link.get x with recovery := n }) := by
    apply setLink_only <;> simp
  unfold acceptState
  dsimp only
  split
  · exact move _ (.refl _ _)
  · exact .ite (fun _ => move _ (rec' _)) fun _ => rec' _
  · exact .ite (fun _ => move _ (rec' _)) fun _ => rec' _
  all_goals exact .refl _ _

theorem acceptRecord_only (x : Axle) (f : StatusFrame) (s : State) :
    OnlyChanges [.sync x, .record x, .counters x] s (acceptRecord x f s) := by
  unfold acceptRecord
  apply setLink_only <;> simp

theorem postInverter_only (x : Axle) (f : StatusFrame) (s : State) :
    OnlyChanges [.slots, .fu, .tx, .skips] s (postInverter x f s) :=
  (postInternal_only _ _ _ _ _).trans (postInternal_only _ _ _ _ _)

theorem smParts_subset (x : Axle) : smParts x ⊆ rxParts x := by cases x <;> simp [smParts, rxParts, tripParts]

theorem tmParts_subset (x : Axle) : tmParts x ⊆ rxParts x := by cases x <;> simp [tmParts, rxParts, tripParts]

/-- An accepted frame changes nothing outside the receive side of its link and what its claims reach. -/
theorem acceptFrame_only (x : Axle) (f : StatusFrame) (s : State) : OnlyChanges (rxParts x) s (acceptFrame x f s) := by
  unfold acceptFrame
  dsimp only
  refine .trans ?_ ((tmFrame_only _ _ _).mono (tmParts_subset x))
  refine .trans ?_ ((smFrame_only _ _ _ _).mono (smParts_subset x))
  refine .trans ?_ ((acceptState_only _ _).mono (by simp [rxParts, tripParts]))
  refine .trans ?_ ((takeEcho_only _ _ _).mono (by simp [rxParts]))
  refine .trans ?_ ((takeNotice_only _ _ _ _).mono (by simp [rxParts, tripParts]))
  exact .trans ((acceptRecord_only _ _ _).mono (by simp [rxParts]))
    ((postInverter_only _ _ _).mono (by simp [rxParts, tripParts]))

theorem badFrame_only (x : Axle) (s : State) :
    OnlyChanges ([.sync x, .linkState x, .counters x, .out] ++ tripParts) s (badFrame x s) := by
  have upd (v : AxleLink) (h : v = { s.link.get x with recovery := v.recovery, badRun := v.badRun, counters := v.counters }) :
      OnlyChanges ([.sync x, .linkState x, .counters x, .out] ++ tripParts) s (s.setLink x v) := by
    rw [h]; apply setLink_only <;> simp
  unfold badFrame
  dsimp only
  split
  · exact .ite (fun _ => (upd _ rfl).trans ((moveLink_only _ _ _).mono (by simp [tripParts]))) fun _ => upd _ rfl
  all_goals exact upd _ rfl

theorem badFrames_only (x : Axle) (n : Nat) (s : State) :
    OnlyChanges ([.sync x, .linkState x, .counters x, .out] ++ tripParts) s (badFrames x n s) := by
  induction n generalizing s with
  | zero => exact .refl _ _
  | succ n ih => exact (badFrame_only x s).trans (ih _)

theorem setPartial_only (x : Axle) (bytes : List Byte) (s : State) : OnlyChanges [.rx x] s (setPartial x bytes s) := by
  unfold setPartial
  apply setLink_only <;> simp

theorem badFrame_rx (x : Axle) (s t : State) (h : OnlyChanges [.rx x] s t) : OnlyChanges (rxParts x) s (badFrame x t) :=
  (h.mono (by simp [rxParts])).trans ((badFrame_only _ _).mono (by simp [rxParts, tripParts]))

theorem acceptFrame_rx (x : Axle) (f : StatusFrame) (s t : State) (h : OnlyChanges [.rx x] s t) :
    OnlyChanges (rxParts x) s (acceptFrame x f t) :=
  (h.mono (by simp [rxParts])).trans (acceptFrame_only _ _ _)

theorem receiveByte_only (x : Axle) (s : State) (b : Byte) : OnlyChanges (rxParts x) s (receiveByte x s b) := by
  have keep (bytes : List Byte) := (setPartial_only x bytes s).mono (qs := rxParts x) (by simp [rxParts])
  unfold receiveByte
  split
  · exact .refl _ _
  · exact .refl _ _
  · exact .ite (fun _ => keep _) fun _ => .ite (fun _ => acceptFrame_rx _ _ _ _ (setPartial_only _ _ _))
      fun _ => badFrame_rx _ _ _ (setPartial_only _ _ _)
  all_goals
    exact .ite (fun _ => keep _) fun _ => .ite (fun _ => acceptFrame_rx _ _ _ _ (setPartial_only _ _ _))
      fun _ => badFrame_rx _ _ _ (setPartial_only _ _ _)

theorem foldl_receiveByte_only (x : Axle) (bytes : List Byte) (s : State) :
    OnlyChanges (rxParts x) s (bytes.foldl (receiveByte x) s) := by
  induction bytes generalizing s with
  | nil => exact .refl _ _
  | cons b rest ih => exact (receiveByte_only x s b).trans (ih _)

/-- Bytes received on a link change nothing outside the receive side of that link and what its claims reach. -/
theorem receiveBytes_only (x : Axle) (bytes : List Byte) (s : State) :
    OnlyChanges (rxParts x) s (receiveBytes x bytes s) := by
  unfold receiveBytes
  exact .ite (fun _ => foldl_receiveByte_only _ _ _) fun _ => .refl _ _

theorem cutHunting_only (x : Axle) (s : State) : OnlyChanges (rxParts x) s (cutHunting x s) := by
  unfold cutHunting
  dsimp only
  refine .ite (fun _ => .trans ?_ ((badFrames_only _ _ _).mono (by simp [rxParts, tripParts]))) fun _ => .refl _ _
  apply setLink_only <;> simp [rxParts]

theorem framingErrorAt_only (x : Axle) (s : State) : OnlyChanges (rxParts x) s (framingErrorAt x s) := by
  unfold framingErrorAt
  split
  · exact .refl _ _
  · exact .refl _ _
  · apply badFrame_rx
    apply setLink_only <;> simp
  all_goals exact cutHunting_only _ _

theorem gapCutAt_only (x : Axle) (s : State) : OnlyChanges (rxParts x) s (gapCutAt x s) := by
  unfold gapCutAt
  split
  · exact .refl _ _
  · exact .refl _ _
  · refine .ite (fun _ => .refl _ _) fun _ => ?_
    apply badFrame_rx
    apply setLink_only <;> simp
  all_goals exact cutHunting_only _ _

theorem enterBroken_only (x : Axle) (s : State) : OnlyChanges (rxParts x) s (enterBroken x s) := by
  unfold enterBroken
  refine .trans ?_ ((moveLink_only _ _ _).mono (by simp [rxParts, tripParts]))
  apply setLink_only <;> simp [rxParts]

theorem cutBeforeLow_only (x : Axle) (s : State) : OnlyChanges (rxParts x) s (cutBeforeLow x s) := by
  unfold cutBeforeLow
  exact .ite (fun _ => .refl _ _) fun _ => framingErrorAt_only _ _

theorem lineLow_only (x : Axle) (s : State) : OnlyChanges (rxParts x) s (lineLow x s) := by
  unfold lineLow
  refine .ite (fun _ => ?_) fun _ => .refl _ _
  split
  · exact .refl _ _
  · exact .refl _ _
  all_goals
    refine .trans (.trans (cutBeforeLow_only _ _) ?_) (enterBroken_only _ _)
    apply setLink_only <;> simp [rxParts]

theorem lineHigh_only (x : Axle) (s : State) : OnlyChanges (rxParts x) s (lineHigh x s) := by
  have h : OnlyChanges (rxParts x) s (s.setLink x { s.link.get x with lowLineUs := 0 }) := by
    apply setLink_only <;> simp [rxParts]
  unfold lineHigh
  refine .ite (fun _ => .trans (h.trans ?_) ((moveLink_only _ _ _).mono (by simp [rxParts, tripParts]))) fun _ => h
  apply setLink_only <;> simp [rxParts]

end Sys2Proof.Machine
end

