-- ==== Sys2Proof/Laws/Requests.lean ====
section
/-! SUPPORT. Requests: what HP does with the request at the head of its queue, and what each owner changes. -/

namespace Sys2Proof.Machine

/-! ### Dispatch -/

/-- A request that is handed to its owner (R158). -/
theorem takeRequest_handed {k : RequestKind} {f : HostFrame} {s : State} (h : Handed k f s)
    (owner : HostFrame → State → State) : takeRequest k owner s = owner f (popRequest s) := by
  obtain ⟨-, hr, hl, hf, hk, hlen, hst⟩ := h
  unfold takeRequest
  cases hq : s.hp.requestQueue with
  | nil => simp [hq] at hf
  | cons g rest =>
    simp [hq] at hf
    subst hf
    simp [canTake, hr, hl, hk, Config.transmitPlaces, dispatch, hlen, hst, popRequest]

/-- A command whose request is handed to its owner answers what the owner answers. -/
theorem inOperation_handed {k : RequestKind} {f : HostFrame} {s : State} (h : Handed k f s)
    (owner : HostFrame → State → State) :
    inOperation (takeRequest k owner) s = .next (owner f (popRequest s)) := by
  simp [inOperation, h.1, takeRequest_handed h owner]

/-- What a request changes at most: a reply, the queue it leaves, and what its owner changes. -/
theorem takeRequest_only {ps : List Part} (k : RequestKind) (owner : HostFrame → State → State) (s : State)
    (htx : .tx ∈ ps) (hrq : .requests ∈ ps) (h : ∀ f t, OnlyChanges ps t (owner f t)) :
    OnlyChanges ps s (takeRequest k owner s) := by
  unfold takeRequest
  split
  · exact .refl _ _
  · refine .ite (fun _ => .trans ((popRequest_only s).mono (by simpa using hrq)) ?_) fun _ => .refl _ _
    unfold dispatch
    exact .ite (fun _ => (reply_only _ _ _ _).mono (by simpa using htx)) fun _ =>
      .ite (fun _ => (reply_only _ _ _ _).mono (by simpa using htx)) fun _ => h _ _

theorem reply_mono {ps : List Part} (h : .tx ∈ ps) (f : HostFrame) (r : ResultCode) (p : List Byte) {s t : State}
    (k : OnlyChanges ps s t) : OnlyChanges ps s (reply f r p t) := k.trans ((reply_only _ _ _ _).mono (by simpa using h))

/-! ### Owners -/

theorem ownerParamGet_only (f : HostFrame) (s : State) : OnlyChanges [.tx] s (ownerParamGet f s) := reply_only _ _ _ _

theorem writeParam_only (n v : Nat) (s : State) :
    OnlyChanges [.params, .hostLink, .fu, .tx, .skips] s (writeParam n v s) := by
  have h : OnlyChanges [.params, .hostLink, .fu, .tx, .skips] s
      (s.setHp { s.hp with params := s.hp.params.write n v }) := by apply setHp_only <;> simp
  unfold writeParam
  exact .ite (fun _ => h.trans ((evaluateHostLink_only _).mono (by simp))) fun _ => h

theorem ownerParamSet_only (f : HostFrame) (s : State) :
    OnlyChanges [.params, .hostLink, .fu, .tx, .skips] s (ownerParamSet f s) := by
  unfold ownerParamSet
  dsimp only
  split
  · exact reply_mono (by simp) _ _ _ (.refl _ _)
  · exact reply_mono (by simp) _ _ _ (writeParam_only _ _ _)

theorem ownerSync_only (f : HostFrame) (s : State) : OnlyChanges [.syncPending, .tx] s (ownerSync f s) := by
  unfold ownerSync
  split
  · exact reply_mono (by simp) _ _ _ (.refl _ _)
  · apply setHp_only <;> simp

theorem abortSync_only (s : State) : OnlyChanges [.syncPending, .tx] s (abortSync s) := by
  unfold abortSync
  split
  · exact .refl _ _
  · refine .trans ?_ ((enqueueFrame_only _ _).mono (by simp))
    apply setHp_only <;> simp

theorem ownerReset_only (f : HostFrame) (s : State) : OnlyChanges [.syncPending, .tx, .cause] s (ownerReset f s) := by
  have h : OnlyChanges [.syncPending, .tx, .cause] s (reply f .ok [] (abortSync s)) :=
    reply_mono (by simp) _ _ _ ((abortSync_only s).mono (by simp))
  refine h.trans ?_
  apply setHp_only <;> simp

theorem takeUnknown_only (s : State) : OnlyChanges [.requests, .tx] s (takeUnknown s) := by
  unfold takeUnknown
  split
  · exact .refl _ _
  · exact .ite (fun _ => reply_mono (by simp) _ _ _ ((popRequest_only s).mono (by simp))) fun _ => .refl _ _

theorem ownerDemand_only (f : HostFrame) (s : State) : OnlyChanges [.di, .tx] s (ownerDemand f s) := by
  unfold ownerDemand
  dsimp only
  split
  · exact reply_mono (by simp) _ _ _ ((setDi_only _ _).mono (by simp))
  · exact reply_mono (by simp) _ _ _ (.refl _ _)
  · exact reply_mono (by simp) _ _ _ ((setDi_only _ _).mono (by simp))

theorem ownerCapPost_only (f : HostFrame) (s : State) : OnlyChanges [.pool, .fu, .tx, .skips] s (ownerCapPost f s) := by
  have no (r : ResultCode) (p : List Byte) : OnlyChanges [.pool, .fu, .tx, .skips] s (reply f r p s) :=
    reply_mono (by simp) _ _ _ (.refl _ _)
  unfold ownerCapPost
  dsimp only
  split
  · refine .ite (fun _ => no _ _) fun _ => ?_
    split
    · exact no _ _
    · unfold postHost
      exact .ite (fun _ => reply_mono (by simp) _ _ _ ((signalReporting_only _ _ _).mono (by simp))) fun _ =>
        reply_mono (by simp) _ _ _ ((setPool_only _ _).mono (by simp))
  · exact no _ _

theorem ownerCapWithdraw_only (f : HostFrame) (s : State) : OnlyChanges [.pool, .tx] s (ownerCapWithdraw f s) := by
  have no (r : ResultCode) (p : List Byte) : OnlyChanges [.pool, .tx] s (reply f r p s) :=
    reply_mono (by simp) _ _ _ (.refl _ _)
  unfold ownerCapWithdraw
  split
  · exact .ite (fun _ => reply_mono (by simp) _ _ _ ((setPool_only _ _).mono (by simp))) fun _ => no _ _
  · exact no _ _
  · exact no _ _

theorem withdrawTrack_only (s : State) : OnlyChanges [.slots, .fu, .tx, .skips] s (withdrawTrack s) :=
  (((withdrawInternal_only _ _ _ _).trans (withdrawInternal_only _ _ _ _)).trans (withdrawInternal_only _ _ _ _)).trans
    (withdrawInternal_only _ _ _ _)

theorem ownerCapWithdrawSource_only (f : HostFrame) (s : State) :
    OnlyChanges [.pool, .slots, .fu, .tx, .skips] s (ownerCapWithdrawSource f s) := by
  have no (r : ResultCode) (p : List Byte) : OnlyChanges [.pool, .slots, .fu, .tx, .skips] s (reply f r p s) :=
    reply_mono (by simp) _ _ _ (.refl _ _)
  unfold ownerCapWithdrawSource
  split
  · exact no _ _
  · exact reply_mono (by simp) _ _ _ ((withdrawTrack_only _).mono (by simp))
  · exact no _ _
  · exact reply_mono (by simp) _ _ _ ((setPool_only _ _).mono (by simp))

theorem ownerCapList_only (f : HostFrame) (s : State) : OnlyChanges [.tx] s (ownerCapList f s) := reply_only _ _ _ _

theorem ownerProfileWrite_only (f : HostFrame) (s : State) : OnlyChanges [.pt, .tx] s (ownerProfileWrite f s) := by
  have no (r : ResultCode) (p : List Byte) : OnlyChanges [.pt, .tx] s (reply f r p s) :=
    reply_mono (by simp) _ _ _ (.refl _ _)
  unfold ownerProfileWrite
  split
  · exact no _ _
  · dsimp only
    split
    · exact no _ _
    · exact reply_mono (by simp) _ _ _ ((setPt_only _ _).mono (by simp))

theorem ownerProfileCheck_only (f : HostFrame) (s : State) : OnlyChanges [.tx] s (ownerProfileCheck f s) := by
  unfold ownerProfileCheck
  split
  · exact reply_only _ _ _ _
  · dsimp only
    split <;> exact reply_only _ _ _ _

theorem ownerProfileRead_only (f : HostFrame) (s : State) : OnlyChanges [.tx] s (ownerProfileRead f s) := by
  unfold ownerProfileRead
  dsimp only
  split
  · exact reply_only _ _ _ _
  · exact .ite (fun _ => reply_only _ _ _ _) fun _ => .ite (fun _ => reply_only _ _ _ _) fun _ => reply_only _ _ _ _

theorem ownerProfileSelect_only (f : HostFrame) (s : State) : OnlyChanges [.pt, .tx] s (ownerProfileSelect f s) := by
  have no (r : ResultCode) (p : List Byte) : OnlyChanges [.pt, .tx] s (reply f r p s) :=
    reply_mono (by simp) _ _ _ (.refl _ _)
  unfold ownerProfileSelect
  dsimp only
  split
  · exact no _ _
  · split
    · exact no _ _
    · exact .ite (fun _ => no _ _) fun _ => reply_mono (by simp) _ _ _ ((setPt_only _ _).mono (by simp))

/-- A query changes the notice slot and the service slot of the link it names, or nothing but the reply. -/
theorem ownerLinkQuery_only (f : HostFrame) (s : State) :
    OnlyChanges [.notices .front, .notices .rear, .service .front, .service .rear, .tx] s (ownerLinkQuery f s) := by
  unfold ownerLinkQuery
  split
  · exact reply_mono (by simp) _ _ _ (.refl _ _)
  · rename_i x _
    refine reply_mono (by simp) _ _ _ ?_
    apply setLink_only <;> (cases x <;> (unfold AxleLink.afterQuery; dsimp only; split <;> split <;> simp))

theorem ownerLinkPost_only (f : HostFrame) (s : State) :
    OnlyChanges [.service .front, .service .rear, .tx] s (ownerLinkPost f s) := by
  have no (r : ResultCode) (p : List Byte) : OnlyChanges [.service .front, .service .rear, .tx] s (reply f r p s) :=
    reply_mono (by simp) _ _ _ (.refl _ _)
  unfold ownerLinkPost
  split
  · exact no _ _
  · rename_i x _
    dsimp only
    refine .ite (fun _ => no _ _) fun _ => .ite (fun _ => no _ _) fun _ => reply_mono (by simp) _ _ _ ?_
    apply setLink_only <;> (cases x <;> simp)

theorem startArming_only (s : State) : OnlyChanges [.oc] s (startArming s) := setOc_only _ _

theorem ownerArm_only (f : HostFrame) (s : State) : OnlyChanges [.oc, .tx] s (ownerArm f s) := by
  unfold ownerArm
  split
  · exact reply_mono (by simp) _ _ _ (.refl _ _)
  · exact reply_mono (by simp) _ _ _ ((startArming_only _).mono (by simp))

theorem disarmFrom_only (s : State) : OnlyChanges tripParts s (disarmFrom s) := by
  have oc (v : OutputControl) : OnlyChanges tripParts s (s.setOc v) := (setOc_only s v).mono (by simp [tripParts])
  have links (t : State) (h : OnlyChanges tripParts s t) :
      OnlyChanges tripParts s (disarmNotice .rear (disarmNotice .front t)) :=
    (h.trans ((disarmNotice_only .front _).mono (by simp [tripParts]))).trans
      ((disarmNotice_only .rear _).mono (by simp [tripParts]))
  unfold disarmFrom
  split
  · exact links _ ((oc _).trans ((notifyLeavingArmed_only _).mono (by simp [tripParts])))
  · exact links _ (oc _)
  all_goals exact .refl _ _

theorem ownerDisarm_only (f : HostFrame) (s : State) : OnlyChanges tripParts s (ownerDisarm f s) := by
  unfold ownerDisarm
  exact .ite (fun _ => reply_mono (by simp [tripParts]) _ _ _ (.refl _ _)) fun _ =>
    reply_mono (by simp [tripParts]) _ _ _ (disarmFrom_only _)

theorem ownerTorqueOff_only (f : HostFrame) (s : State) : OnlyChanges tripParts s (ownerTorqueOff f s) := by
  unfold ownerTorqueOff
  exact reply_mono (by simp [tripParts]) _ _ _ (trip_only _ _)

theorem ownerClearTrip_only (f : HostFrame) (s : State) : OnlyChanges [.oc, .tx] s (ownerClearTrip f s) := by
  unfold ownerClearTrip
  refine .ite (fun _ => ?_) fun _ => reply_mono (by simp) _ _ _ (.refl _ _)
  split
  · exact reply_mono (by simp) _ _ _ ((setOc_only _ _).mono (by simp))
  · exact reply_mono (by simp) _ _ _ (.refl _ _)

theorem ownerFaultRead_only (f : HostFrame) (s : State) : OnlyChanges [.fu, .tx] s (ownerFaultRead f s) := by
  unfold ownerFaultRead
  exact reply_mono (by simp) _ _ _ (.trans ((setFu_only _ _).mono (by simp)) ((updateAttn_only _).mono (by simp)))

theorem ownerFaultMask_only (f : HostFrame) (s : State) : OnlyChanges [.fu, .tx] s (ownerFaultMask f s) := by
  unfold ownerFaultMask
  exact .ite (fun _ => reply_mono (by simp) _ _ _ (.refl _ _)) fun _ =>
    reply_mono (by simp) _ _ _ (.trans ((setFu_only _ _).mono (by simp)) ((updateAttn_only _).mono (by simp)))

theorem testFault_only (set : Nat) (s : State) (c : FaultCode) : OnlyChanges tripParts s (testFault set s c) := by
  unfold testFault
  exact .ite (fun _ => .refl _ _) fun _ => signal_only _ _ _

theorem foldl_testFault_only (set : Nat) (cs : List FaultCode) (s : State) :
    OnlyChanges tripParts s (cs.foldl (testFault set) s) := by
  induction cs generalizing s with
  | nil => exact .refl _ _
  | cons c rest ih => exact (testFault_only set s c).trans (ih _)

theorem ownerFaultTest_only (f : HostFrame) (s : State) : OnlyChanges tripParts s (ownerFaultTest f s) := by
  unfold ownerFaultTest
  exact .ite (fun _ => reply_mono (by simp [tripParts]) _ _ _ (.refl _ _)) fun _ =>
    .ite (fun _ => reply_mono (by simp [tripParts]) _ _ _ (.refl _ _)) fun _ =>
      reply_mono (by simp [tripParts]) _ _ _ (foldl_testFault_only _ _ _)

end Sys2Proof.Machine
end

