-- ==== Sys2Proof/Laws/Period.lean ====
section
/-! SUPPORT. The period operation, the 1 ms timer and the clock: what each changes. -/

namespace Sys2Proof.Machine

/-! ### Stages -/

theorem demandTake_only (s : State) : OnlyChanges [.di] s (demandTake s) := setDi_only _ _

theorem signalStale_only (s : State) : OnlyChanges [.di, .fu, .tx, .skips, .free] s (signalStale s) := by
  unfold signalStale drawFree
  refine .trans ?_ ((actOutward_only _ _ _).mono (by simp))
  refine .trans ?_ ((takeAtRecord_only _ _ _).mono (by simp))
  exact ((setDi_only _ _).mono (by simp)).trans ((setFreeIndex_only _ _).mono (by simp))

/-- Stage 1 changes Demand Intake, the Slip Monitors with their entries, and what their signals reach. -/
theorem stageDemand_only (w : PeriodWork) (s : State) :
    OnlyChanges [.di, .fu, .tx, .skips, .free, .sm .front, .sm .rear, .slots] s (stageDemand w s).2 := by
  unfold stageDemand
  dsimp only
  refine .trans (.trans ?_ ((smDirection_only .front _ _).mono (by simp [smParts])))
    ((smDirection_only .rear _ _).mono (by simp [smParts]))
  have h := (demandTake_only s).mono (qs := [.di, .fu, .tx, .skips, .free, .sm .front, .sm .rear, .slots]) (by simp)
  exact .ite (fun _ => h.trans ((signalStale_only _).mono (by simp))) fun _ => h

theorem demandNotice_only (n : Nat) (s : State) : OnlyChanges [.oc] s (demandNotice n s) := by
  unfold demandNotice
  exact .ite (fun _ => setOc_only _ _) fun _ => .refl _ _

theorem stageOutputState_only (w : PeriodWork) (s : State) : OnlyChanges [.oc] s (stageOutputState w s).2 :=
  demandNotice_only _ _

theorem stageShare_only (w : PeriodWork) (s : State) : OnlyChanges [.pt] s (stageShare w s).2 := setPt_only _ _

/-- Stage 10 changes the transmit side of both links and the previous commands. -/
theorem stageIssue_only (w : PeriodWork) (s : State) :
    OnlyChanges [.se, .line .front, .seq .front, .service .front, .counters .front,
      .line .rear, .seq .rear, .service .rear, .counters .rear] s (stageIssue w s).2 := by
  unfold stageIssue
  dsimp only
  exact (((takeIssue_only .front _ _).mono (by simp)).trans ((takeIssue_only .rear _ _).mono (by simp))).trans
    ((setSe_only _ _).mono (by simp))

theorem stageMonitor_only (w : PeriodWork) (s : State) : OnlyChanges [.se, .fu, .tx, .skips] s (stageMonitor w s).2 := by
  unfold stageMonitor
  dsimp only
  exact .ite (fun _ => (setSe_only _ _).mono (by simp)) fun _ =>
    ((setSe_only _ _).mono (by simp)).trans ((signalReporting_only _ _ _).mono (by simp))

theorem reportStep_only (w : PeriodWork) (s : State) : OnlyChanges [.se, .tx, .skips] s (reportStep w s) := by
  unfold reportStep
  dsimp only
  exact .ite (fun _ => (setSe_only _ _).mono (by simp)) fun _ => .ite
    (fun _ => ((setSe_only _ _).mono (by simp)).trans ((offerReport_only _ _).mono (by simp)))
    fun _ => (setSe_only _ _).mono (by simp)

theorem completePeriod_only (s : State) : OnlyChanges [.syncPending, .tx] s (completePeriod s) := by
  unfold completePeriod
  split
  · exact .refl _ _
  · refine .ite (fun _ => .trans ?_ ((enqueueFrame_only _ _).mono (by simp))) fun _ => .refl _ _
    apply setHp_only <;> simp

theorem stageReport_only (w : PeriodWork) (s : State) :
    OnlyChanges [.se, .tx, .skips, .syncPending] s (stageReport w s).2 :=
  .trans ((reportStep_only _ _).mono (by simp)) ((completePeriod_only _).mono (by simp))

/-! ### Timers -/

theorem hostEntryExpires_only (src : HostSource) (x : Axle) (d : Direction) (s : State) :
    OnlyChanges [.pool] s (hostEntryExpires src x d s) := setPool_only _ _

theorem armWindowExpires_only (s : State) : OnlyChanges [.oc] s (armWindowExpires s) := by
  unfold armWindowExpires
  exact .ite (fun _ => setOc_only _ _) fun _ => .refl _ _

theorem linkTimerExpires_only (x : Axle) (s : State) :
    OnlyChanges ([.sync x, .linkState x, .out] ++ tripParts) s (linkTimerExpires x s) := by
  have upd : OnlyChanges ([.sync x, .linkState x, .out] ++ tripParts) s
      (s.setLink x { s.link.get x with timer := none, recovery := 0 }) := by
    apply setLink_only <;> simp
  unfold linkTimerExpires
  dsimp only
  refine .ite (fun _ => ?_) fun _ => .refl _ _
  split
  · exact upd.trans ((moveLink_only _ _ _).mono (by simp [tripParts]))
  · exact upd.trans ((moveLink_only _ _ _).mono (by simp [tripParts]))
  · exact upd.trans ((moveLink_only _ _ _).mono (by simp [tripParts]))
  · exact upd
  all_goals exact .refl _ _

/-! ### The clock -/

theorem setTimebase_only (live : Bool) (s : State) : OnlyChanges (.tb :: tripParts) s (setTimebase live s) :=
  ((setTb_only _ _).mono (by simp)).trans ((signal_only _ _ _).mono (by simp))

theorem judgeWindow_only (n : Nat) (s : State) : OnlyChanges (.tb :: tripParts) s (judgeWindow n s) := by
  have tb (v : Timebase) : OnlyChanges (.tb :: tripParts) s (s.setTb v) := (setTb_only s v).mono (by simp)
  unfold judgeWindow
  dsimp only
  exact .ite (fun _ => .ite (fun _ => (tb _).trans (setTimebase_only _ _)) fun _ => tb _)
    fun _ => .ite (fun _ => (tb _).trans (setTimebase_only _ _)) fun _ => tb _

theorem hold_only (x : Axle) (m : LineMeasures) (s : State) :
    OnlyChanges [.line x, .rx x] s (s.setLink x ((s.link.get x).hold m)) := by
  apply setLink_only <;> simp [AxleLink.hold]

/-- REFCLK is absent: the clock input, and the measures that hold, change. -/
theorem holdMeasures_only (m : Measures) (s : State) :
    OnlyChanges [.tb, .se, .tx, .framer, .line .front, .rx .front, .line .rear, .rx .rear] s (holdMeasures m s) := by
  have hp (t : State) (a b : Nat) : OnlyChanges [.tb, .se, .tx, .framer, .line .front, .rx .front, .line .rear, .rx .rear]
      t (t.setHp { t.hp with sendBits := a, gapUs := b }) := by apply setHp_only <;> simp
  unfold holdMeasures
  exact ((((setTb_only _ _).mono (by simp)).trans ((setSe_only _ _).mono (by simp))).trans (hp _ _ _)).trans
    (((hold_only .front _ _).mono (by simp)).trans ((hold_only .rear _ _).mono (by simp)))

/-- REFCLK stops with no operation in progress (R25). -/
theorem clockStops_idle (m : Measures) {s : State} (h : s.se.work = none) (c : s.tb.refclk = true) :
    clockStops m s = holdMeasures m s := by
  simp [clockStops, finishPeriod, h, c]

theorem clockReturns_only (s : State) : OnlyChanges [.tb, .tx] s (clockReturns s) :=
  ((setTb_only _ _).mono (by simp)).trans ((startHostFrame_only _).mono (by simp))

/-! ### The host port's line -/

theorem badHostFrame_only (s : State) : OnlyChanges [.framer, .hostLink, .fu, .tx, .skips] s (badHostFrame s) := by
  refine .trans ?_ ((evaluateHostLink_only _).mono (by simp))
  apply setHp_only <;> simp

theorem queueRequest_only (f : HostFrame) (s : State) : OnlyChanges [.requests, .dropped] s (queueRequest f s) := by
  unfold queueRequest
  refine .ite (fun _ => ?_) fun _ => ?_ <;> (apply setHp_only <;> simp)

theorem goodHostFrame_only (f : HostFrame) (s : State) :
    OnlyChanges [.framer, .hostLink, .fu, .tx, .skips, .requests, .dropped] s (goodHostFrame f s) := by
  unfold goodHostFrame
  refine .trans (.trans ?_ ((evaluateHostLink_only _).mono (by simp))) ((queueRequest_only _ _).mono (by simp))
  apply setHp_only <;> simp

theorem hostByte_only (s : State) (b : Byte) :
    OnlyChanges [.framer, .hostLink, .fu, .tx, .skips, .requests, .dropped] s (hostByte s b) := by
  have upd (v : HostPort) (h : v = { s.hp with framer := v.framer, gapUs := v.gapUs }) :
      OnlyChanges [.framer, .hostLink, .fu, .tx, .skips, .requests, .dropped] s (s.setHp v) := by
    rw [h]; apply setHp_only <;> simp
  have bad : OnlyChanges [.framer, .hostLink, .fu, .tx, .skips, .requests, .dropped] s (badHostFrame s) :=
    (badHostFrame_only s).mono (by simp)
  unfold hostByte
  split
  · exact .ite (fun _ => upd _ rfl) fun _ => .refl _ _
  · exact .ite (fun _ => bad) fun _ => upd _ rfl
  · exact .ite (fun _ => upd _ rfl) fun _ => .ite (fun _ => goodHostFrame_only _ _) fun _ => bad

theorem foldl_hostByte_only (bytes : List Byte) (s : State) :
    OnlyChanges [.framer, .hostLink, .fu, .tx, .skips, .requests, .dropped] s (bytes.foldl hostByte s) := by
  induction bytes generalizing s with
  | nil => exact .refl _ _
  | cons b rest ih => exact (hostByte_only s b).trans (ih _)

theorem hostBytes_only (bytes : List Byte) (s : State) :
    OnlyChanges [.framer, .hostLink, .fu, .tx, .skips, .requests, .dropped] s (hostBytes bytes s) := by
  unfold hostBytes
  exact .ite (fun _ => foldl_hostByte_only _ _) fun _ => .refl _ _

theorem hostFrameSent_only (s : State) : OnlyChanges [.tx] s (hostFrameSent s) := by
  unfold hostFrameSent
  refine .ite (fun _ => .trans ?_ (startHostFrame_only _)) fun _ => .refl _ _
  apply setHp_only <;> simp

end Sys2Proof.Machine
end

