-- ==== Sys2Proof/Laws/Between.lean ====
section
/-! SUPPORT. What can be taken between two claims of a command, and what a command with such an operand changes: nothing
outside the parts it changes itself and the parts that a period operation, an ARM, a CAP WITHDRAW SOURCE or a CAP LIST
changes. -/

namespace Sys2Proof.Machine

/-- What a period operation may change. -/
def periodParts : List Part :=
  [.se, .di, .pt, .free, .syncPending, .seq .front, .seq .rear, .service .front, .service .rear, .counters .front,
   .counters .rear] ++ tripParts

/-- What may change between two claims of a command. -/
def betweenParts : List Part := .requests :: .pool :: periodParts

/-! ### The period operation -/

theorem runStage_only (t : Stage) (w : PeriodWork) (s : State) : OnlyChanges periodParts s (runStage t w s).2 := by
  cases t
  · exact (stageDemand_only w s).mono (by simp [periodParts, tripParts])
  · exact (stageOutputState_only w s).mono (by simp [periodParts, tripParts])
  · exact (stageShare_only w s).mono (by simp [periodParts])
  · exact .refl _ _
  · exact .refl _ _
  · exact .refl _ _
  · exact .refl _ _
  · exact .refl _ _
  · exact .refl _ _
  · exact (stageIssue_only w s).mono (by simp [periodParts, tripParts])
  · exact (stageMonitor_only w s).mono (by simp [periodParts, tripParts])
  · exact (stageReport_only w s).mono (by simp [periodParts, tripParts])

theorem takeStaleTrip_only (n : Nat) (w : PeriodWork) (s : State) : OnlyChanges periodParts s (takeStaleTrip n w s).2 := by
  unfold takeStaleTrip
  split
  · exact (trip_only _ _).mono (List.subset_append_right _ _)
  · exact .refl _ _

theorem runStages_only (ts : List Stage) (w : PeriodWork) (s : State) : OnlyChanges periodParts s (runStages ts w s).2 := by
  induction ts generalizing w s with
  | nil => exact .refl _ _
  | cons t rest ih => exact ((takeStaleTrip_only _ _ _).trans (runStage_only _ _ _)).trans (ih _ _)

theorem runUpTo_only (slip : SlipOrder) (last : Nat) (w : PeriodWork) (s : State) :
    OnlyChanges periodParts s (runUpTo slip last w s).2 := by
  unfold runUpTo
  split
  · exact (((runStages_only _ _ _).trans (runStages_only _ _ _)).trans (takeStaleTrip_only _ _ _)).trans
      (runStages_only _ _ _)
  · exact runStages_only _ _ _

theorem runOperation_only (w : PeriodWork) (through : Stage) (s : State) (slip : SlipOrder) :
    OnlyChanges periodParts s (runOperation w through s slip) := by
  have se {t : State} (v : SplitEngine) (h : OnlyChanges periodParts s t) : OnlyChanges periodParts s (t.setSe v) :=
    h.trans ((setSe_only _ _).mono (by simp [periodParts]))
  unfold runOperation
  dsimp only
  split
  · exact se _ ((runUpTo_only _ _ _ _).trans (takeStaleTrip_only _ _ _))
  · exact se _ (runUpTo_only _ _ _ _)

theorem periodExpiry_only (through : Stage) (s : State) (slip : SlipOrder) :
    OnlyChanges periodParts s (periodExpiry through s slip) := by
  unfold periodExpiry
  refine .ite (fun _ => ?_) fun _ => .refl _ _
  split
  · exact runOperation_only _ _ _ _
  · exact .ite (fun _ => ((setSe_only _ _).mono (by simp [periodParts])).trans (runOperation_only _ _ _ _))
      fun _ => .refl _ _

/-- With REFCLK present, the completion of the operation in progress is what a PERIOD_EXPIRY through stage 12 does (R25). -/
theorem finishPeriod_eq {w : PeriodWork} {s : State} (h : s.se.work = some w) (c : s.tb.refclk = true) :
    finishPeriod s = periodExpiry .report s := by
  simp [finishPeriod, periodExpiry, h, c]

theorem finishPeriod_only (s : State) : OnlyChanges periodParts s (finishPeriod s) := by
  unfold finishPeriod
  split
  · exact runOperation_only _ _ _ _
  · exact .refl _ _

@[simp] theorem finishPeriod_work (s : State) : (finishPeriod s).se.work = none := by
  unfold finishPeriod
  split
  · rfl
  · assumption

/-- Once REFCLK has stopped no operation is in progress (R25, R166). -/
theorem clockStops_work (m : Measures) {s : State} (c : s.tb.refclk = true) : (clockStops m s).se.work = none := by
  simp [clockStops, holdMeasures, c]

/-- A PERIOD_EXPIRY to stage 4 that finds an operation after stage 3 takes the caps from the Cap Table and changes nothing
else. -/
theorem periodExpiry_caps {w : PeriodWork} {s : State} (h : Standing 3 w s) (slip : SlipOrder) :
    periodExpiry .caps s slip = s.setSe { s.se with work := some { w with done := 4, caps := w.capsOf s.ct } } := by
  obtain ⟨⟨-, c⟩, h, d, n⟩ := h
  have e : stagesUpTo 3 4 = [.caps] := by decide
  simp [periodExpiry, c, h, runOperation, runUpTo, d, stageNumber, e, runStages, takeStaleTrip, n, runStage, stageCaps]

/-! ### Between two claims -/

theorem runMeanwhile_only (gap : ClaimGap) (m : Meanwhile) (s : State) : OnlyChanges betweenParts s (runMeanwhile gap m s) := by
  have request {ps : List Part} (k : RequestKind) (owner : HostFrame → State → State)
      (h : ∀ f t, OnlyChanges ps t (owner f t)) (sub : ps ⊆ betweenParts) :
      OnlyChanges betweenParts s (takeRequest k owner s) := by
    refine takeRequest_only k owner s ?_ ?_ (fun f t => (h f t).mono sub) <;> simp [betweenParts, periodParts, tripParts]
  cases m
  · exact (periodExpiry_only _ _ _).mono fun _ h => .tail _ (.tail _ h)
  · exact request _ _ ownerArm_only (by simp [betweenParts, periodParts, tripParts])
  · exact request _ _ ownerCapWithdrawSource_only (by simp [betweenParts, periodParts, tripParts])
  · exact request _ _ ownerCapList_only (by simp [betweenParts, periodParts, tripParts])

theorem gaps_only (gs : List (ClaimGap × Meanwhile)) (gap : ClaimGap) (s : State) :
    OnlyChanges betweenParts s (gaps gs gap s) := by
  unfold gaps
  induction gs generalizing s with
  | nil => exact .refl _ _
  | cons e rest ih => exact (OnlyChanges.ite (fun _ => runMeanwhile_only _ _ _) fun _ => .refl _ _).trans (ih _)

/-! ### The commands that make claims one by one -/

/-- What a command with such an operand may change, on the link `x`. -/
def claimParts (x : Axle) : List Part :=
  [.rx x, .sync x, .linkState x, .record x, .notices x, .service x, .counters x, .out] ++ betweenParts

theorem tripParts_between : tripParts ⊆ betweenParts :=
  fun _ h => .tail _ (.tail _ (List.mem_append_right _ h))

theorem between_claim (x : Axle) : betweenParts ⊆ claimParts x := List.subset_append_right _ _

theorem rxParts_claim (x : Axle) : rxParts x ⊆ claimParts x := by
  intro p h
  rcases List.mem_append.1 h with h | h
  · exact List.mem_append_left _ h
  · exact List.mem_append_right _ (tripParts_between h)

section
variable (gs : List (ClaimGap × Meanwhile)) {s t : State} {x : Axle}

theorem claim_gap (gap : ClaimGap) (h : OnlyChanges (claimParts x) s t) :
    OnlyChanges (claimParts x) s (gaps gs gap t) := h.trans ((gaps_only gs gap t).mono (between_claim x))

/-- Whatever an operation changes within `ps`, after a state reached within the command's parts. -/
theorem claim_then {ps : List Part} {u : State} (h : OnlyChanges (claimParts x) s t) (k : OnlyChanges ps t u)
    (sub : ps ⊆ rxParts x) : OnlyChanges (claimParts x) s u :=
  h.trans (k.mono fun _ m => rxParts_claim x (sub m))

theorem claim_post (src : InternalSource) (y : Axle) (d : Direction) (n : Nat) (h : OnlyChanges (claimParts x) s t) :
    OnlyChanges (claimParts x) s (postInternal src y d n t) :=
  claim_then h (postInternal_only _ _ _ _ _) (by simp [rxParts, tripParts])

theorem claim_withdraw (src : InternalSource) (y : Axle) (d : Direction) (h : OnlyChanges (claimParts x) s t) :
    OnlyChanges (claimParts x) s (withdrawInternal src y d t) :=
  claim_then h (withdrawInternal_only _ _ _ _) (by simp [rxParts, tripParts])

theorem claim_signal (c : FaultCode) (ch : FaultChange) (h : OnlyChanges (claimParts x) s t) :
    OnlyChanges (claimParts x) s (signal c ch t (gaps gs)) := by
  have r := claim_then h (takeAtRecord_only c ch t) (by simp [rxParts, tripParts])
  unfold signal
  dsimp only
  refine claim_then ?_ (actOutward_only _ _ _) (by simp [rxParts, tripParts])
  exact .ite (fun _ => claim_then (claim_gap gs .forcing r) (trip_only _ _) (List.subset_append_right _ _)) fun _ => r

theorem claim_move (new : LinkState) (h : OnlyChanges (claimParts x) s t) :
    OnlyChanges (claimParts x) s (moveLink x new t (gaps gs)) := by
  refine moveLink_keeps (P := OnlyChanges (claimParts x) s) x new t ?_ (fun _ k => ?_) (fun _ k => ?_)
    (fun c b u k => claim_then k (signalReporting_only _ _ _) (by simp [rxParts, tripParts])) (fun b u k => ?_)
    (fun u k => claim_then k (linkLeftSynced_only _) (by simp [rxParts, tripParts]))
  · refine claim_then (ps := [.linkState x]) h ?_ (by simp [rxParts])
    apply setLink_only <;> simp
  · exact claim_post _ _ _ _ (claim_gap gs _ (claim_post _ _ _ _ (claim_gap gs _ k)))
  · exact claim_withdraw _ _ _ (claim_gap gs _ (claim_withdraw _ _ _ (claim_gap gs _ k)))
  · have o (v : OutRecord) : OnlyChanges (claimParts x) s (u.setOut v) := claim_then k (setOut_only u v) (by simp [rxParts])
    unfold outClaim
    exact .ite (fun _ => o _) fun _ => claim_signal gs _ _ (o _)

theorem claim_acceptFrame (f : StatusFrame) (h : OnlyChanges (claimParts x) s t) :
    OnlyChanges (claimParts x) s (acceptFrame x f t (gaps gs)) := by
  have accept (u : State) (k : OnlyChanges (claimParts x) s u) :
      OnlyChanges (claimParts x) s (acceptState x u (gaps gs)) := by
    have rec' (n : Nat) : OnlyChanges (claimParts x) s (u.setLink x { u.link.get x with recovery := n }) := by
      refine claim_then (ps := [.sync x]) k ?_ (by simp [rxParts])
      apply setLink_only <;> simp
    unfold acceptState
    dsimp only
    split
    · exact claim_move gs _ k
    · exact .ite (fun _ => claim_move gs _ (rec' _)) fun _ => rec' _
    · exact .ite (fun _ => claim_move gs _ (rec' _)) fun _ => rec' _
    all_goals exact k
  have track (u : State) (k : OnlyChanges (claimParts x) s u) : OnlyChanges (claimParts x) s (tmFrame x f u (gaps gs)) := by
    have run (v : TrackingMonitor) : OnlyChanges (claimParts x) s (u.setTm x v) :=
      claim_then k (setTm_only u x v) (by cases x <;> simp [rxParts, tripParts])
    unfold tmFrame
    split
    · exact claim_then k (countStaleEcho_only _ _) (by simp [rxParts])
    · refine .ite (fun _ => ?_) fun _ => k
      unfold tmJudge
      dsimp only
      exact .ite (fun _ => .ite (fun _ => claim_post _ _ _ _ (claim_gap gs _ (claim_post _ _ _ _ (run _)))) fun _ => run _)
        fun _ => run _
  unfold acceptFrame
  dsimp only
  refine track _ (claim_gap gs _ (claim_then (claim_gap gs _ (accept _ ?_)) (smFrame_only _ _ _ _) (smParts_subset x)))
  refine claim_then (claim_then ?_ (takeNotice_only _ _ _ _) (by simp [rxParts, tripParts])) (takeEcho_only _ _ _)
    (by simp [rxParts])
  refine claim_post _ _ _ _ (claim_gap gs _ (claim_post _ _ _ _ ?_))
  exact claim_then h (acceptRecord_only _ _ _) (by simp [rxParts])

theorem claim_receiveByte (b : Byte) (h : OnlyChanges (claimParts x) s t) :
    OnlyChanges (claimParts x) s (receiveByte x t b (gaps gs)) := by
  have keep (bytes : List Byte) := claim_then h (setPartial_only x bytes t) (by simp [rxParts])
  have bad (bytes : List Byte) := claim_then (keep bytes) (badFrame_only x _) (by simp [rxParts, tripParts])
  unfold receiveByte
  split
  · exact h
  · exact h
  all_goals
    exact .ite (fun _ => keep _) fun _ => .ite (fun _ => claim_acceptFrame gs _ (keep _)) fun _ => bad _

theorem receiveBytes_gaps_only (x : Axle) (bytes : List Byte) (s : State) :
    OnlyChanges (claimParts x) s (receiveBytes x bytes s (gaps gs)) := by
  have all (bytes : List Byte) : ∀ t, OnlyChanges (claimParts x) s t →
      OnlyChanges (claimParts x) s (bytes.foldl (fun s b => receiveByte x s b (gaps gs)) t) := by
    induction bytes with
    | nil => exact fun _ h => h
    | cons b rest ih => exact fun _ h => ih _ (claim_receiveByte gs b h)
  unfold receiveBytes
  exact .ite (fun _ => all _ _ (.refl _ _)) fun _ => .refl _ _

theorem linkTimerExpires_gaps_only (x : Axle) (s : State) :
    OnlyChanges (claimParts x) s (linkTimerExpires x s (gaps gs)) := by
  have upd : OnlyChanges (claimParts x) s (s.setLink x { s.link.get x with timer := none, recovery := 0 }) := by
    refine claim_then (ps := [.sync x]) (.refl _ _) ?_ (by simp [rxParts])
    apply setLink_only <;> simp
  unfold linkTimerExpires
  dsimp only
  refine .ite (fun _ => ?_) fun _ => .refl _ _
  split
  · exact claim_move gs _ upd
  · exact claim_move gs _ upd
  · exact claim_move gs _ upd
  · exact upd
  all_goals exact .refl _ _

theorem lineLow_gaps_only (x : Axle) (s : State) : OnlyChanges (claimParts x) s (lineLow x s (gaps gs)) := by
  have cut := claim_then (x := x) (.refl (claimParts x) s) (cutBeforeLow_only x s) (fun _ h => h)
  have low (v : AxleLink) (h : v = { (cutBeforeLow x s).link.get x with lowLineUs := v.lowLineUs, partialBytes := v.partialBytes }) :
      OnlyChanges (claimParts x) s ((cutBeforeLow x s).setLink x v) := by
    refine claim_then (ps := [.rx x]) cut ?_ (by simp [rxParts])
    rw [h]; apply setLink_only <;> simp
  have broken (u : State) (h : OnlyChanges (claimParts x) s u) : OnlyChanges (claimParts x) s (enterBroken x u (gaps gs)) := by
    unfold enterBroken
    refine claim_move gs _ (claim_then (ps := [.sync x, .counters x]) h ?_ (by simp [rxParts]))
    apply setLink_only <;> simp
  unfold lineLow
  refine .ite (fun _ => ?_) fun _ => .refl _ _
  split
  · exact .refl _ _
  · exact .refl _ _
  all_goals exact broken _ (low _ rfl)

theorem judgeWindow_gaps_only (n : Nat) (s : State) : OnlyChanges (.tb :: betweenParts) s (judgeWindow n s (gaps gs)) := by
  have tb (t : State) (v : Timebase) : OnlyChanges (.tb :: betweenParts) t (t.setTb v) := (setTb_only t v).mono (by simp)
  have sub : tripParts ⊆ .tb :: betweenParts := fun _ h => .tail _ (tripParts_between h)
  have live (b : Bool) (t : State) : OnlyChanges (.tb :: betweenParts) t (setTimebase b t (gaps gs)) := by
    have r (u : State) (c : FaultCode) (ch : FaultChange) : OnlyChanges (.tb :: betweenParts) u (takeAtRecord c ch u) :=
      (takeAtRecord_only c ch u).mono (List.Subset.trans (by simp [tripParts]) sub)
    unfold setTimebase signal
    dsimp only
    refine (tb t _).trans (.trans (.ite (fun _ => ((r _ .timebase (.live b)).trans ?_).trans ((trip_only _ _).mono sub)) fun _ => r _ .timebase (.live b))
      ((actOutward_only _ _ _).mono (List.Subset.trans (by simp [tripParts]) sub)))
    exact (gaps_only _ _ _).mono (by simp)
  unfold judgeWindow
  dsimp only
  exact .ite (fun _ => .ite (fun _ => (tb _ _).trans (live _ _)) fun _ => tb _ _)
    fun _ => .ite (fun _ => (tb _ _).trans (live _ _)) fun _ => tb _ _

end

/-! ### Reading the operand -/

/-- With nothing in the operand nothing is taken between the claims. -/
theorem gaps_nil : gaps [] = noGaps := rfl

/-- One thing in the operand is taken at its moment and at no other. -/
theorem gaps_single (gap : ClaimGap) (m : Meanwhile) (gap' : ClaimGap) (s : State) :
    gaps [(gap, m)] gap' s = if gap = gap' then runMeanwhile gap' m s else s := rfl

end Sys2Proof.Machine
end

