-- ==== Sys2Proof/Laws/Status.lean ====
section
/-! SUPPORT. STATUS: how long its items are, in which state each is looked at, and what the events between the looks may
change. -/

namespace Sys2Proof.Machine

/-! ### The items -/

/-- The bytes of an item in the reply (R172). -/
theorem lookAt_length (i : StatusItem) (s : State) :
    (lookAt i s).length =
      match i with
      | .tripRecord => 5
      | .periodNumber => 4
      | .testSet | .demandAge | .acceptedCount | .badFrames | .dropped | .overwrites | .duplicates | .reportSkips
      | .noticeSkips => 2
      | _ => 1 := by
  cases i <;> try rfl
  show (tripFields s.oc.tripRecord).length = 5
  unfold tripFields
  split <;> rfl

/-- With nothing between the looks every item is looked at as the request finds it. -/
@[simp] theorem lookedAt_nil (i : StatusItem) (s : State) : lookedAt i [] s = s := rfl

@[simp] theorem afterLooks_nil (s : State) : afterLooks [] s = s := rfl

theorem lookedAt_cons (i : StatusItem) (before : List StatusItem) (e : OwnerEvent)
    (rest : List (List StatusItem × OwnerEvent)) (s : State) :
    lookedAt i ((before, e) :: rest) s = if i ∈ before then s else lookedAt i rest (takeOwnerEvent e s) := rfl

theorem afterLooks_cons (before : List StatusItem) (e : OwnerEvent) (rest : List (List StatusItem × OwnerEvent))
    (s : State) : afterLooks ((before, e) :: rest) s = afterLooks rest (takeOwnerEvent e s) := rfl

/-! ### The events -/

theorem stateAfter_inOperation (effect : State → State) (s : State) :
    stateAfter (inOperation effect s) s = if s.resetnLow then s else effect s := rfl

/-- What the owners' events may change. -/
def ownerEventParts : List Part := .tb :: rxParts .front ++ rxParts .rear ++ periodParts

/-- Each event changes no more than its command does. -/
theorem takeOwnerEvent_only (e : OwnerEvent) (s : State) : OnlyChanges ownerEventParts s (takeOwnerEvent e s) := by
  have op {ps : List Part} {effect : State → State} (h : OnlyChanges ps s (effect s)) (sub : ps ⊆ ownerEventParts) :
      OnlyChanges ownerEventParts s (stateAfter (inOperation effect s) s) := by
    rw [stateAfter_inOperation]
    exact .ite (fun _ => .refl _ _) fun _ => h.mono sub
  have rx (x : Axle) : rxParts x ⊆ ownerEventParts := by
    intro p h
    cases x <;> simp [ownerEventParts, h]
  have oc : [Part.oc] ⊆ ownerEventParts := by simp [ownerEventParts, rxParts, tripParts]
  have tb : Part.tb :: tripParts ⊆ ownerEventParts := by
    intro p h
    rcases List.mem_cons.1 h with h | h
    · simp [ownerEventParts, h]
    · exact rx .front (List.mem_append_right _ h)
  unfold takeOwnerEvent
  cases e with
  | period through slip => exact op (periodExpiry_only through s slip) fun _ h => by simp [ownerEventParts, h]
  | armWindow => exact op (.ite (fun _ => armWindowExpires_only s) fun _ => .refl _ _) oc
  | linkTimer x =>
    exact op (.ite (fun _ => (linkTimerExpires_only x s).mono (by simp [rxParts, tripParts])) fun _ => .refl _ _) (rx x)
  | statusFrame x bytes => exact op (receiveBytes_only x bytes s) (rx x)
  | badFrame x bytes framingError =>
    refine op ?_ (rx x)
    exact .ite (fun _ => (receiveBytes_only x bytes s).trans (framingErrorAt_only x _)) fun _ => receiveBytes_only x bytes s
  | gapCut x => exact op (.ite (fun _ => gapCutAt_only x s) fun _ => .refl _ _) (rx x)
  | lineLow x => exact op (lineLow_only x s) (rx x)
  | lineHigh x => exact op (lineHigh_only x s) (rx x)
  | windowEnd edges => exact op (judgeWindow_only edges s) tb

theorem afterLooks_only (during : List (List StatusItem × OwnerEvent)) (s : State) :
    OnlyChanges ownerEventParts s (afterLooks during s) := by
  induction during generalizing s with
  | nil => exact .refl _ _
  | cons e rest ih => exact (takeOwnerEvent_only e.2 s).trans (ih _)

/-- A STATUS changes no more than the events between its looks do: its reply enters the transmit queue. -/
theorem ownerStatus_only (during : List (List StatusItem × OwnerEvent)) (f : HostFrame) (s : State) :
    OnlyChanges ownerEventParts s (ownerStatus during f s) :=
  reply_mono (by simp [ownerEventParts, rxParts, tripParts]) _ _ _ (afterLooks_only during s)

/-- With nothing between its looks, the reply alone. -/
theorem ownerStatus_nil_only (f : HostFrame) (s : State) : OnlyChanges [.tx] s (ownerStatus [] f s) := reply_only _ _ _ _

end Sys2Proof.Machine
end

