-- ==== Sys2Proof/Laws/FrameEnd.lean ====
section
/-! SUPPORT. The completion of a command frame: which of its events come before the start of the frame that waits, and what it
may change. -/

namespace Sys2Proof.Machine

/-! ### The order of completion, trip and start (R108) -/

@[simp] theorem freeLine_link (x : Axle) (s : State) :
    (freeLine x s).link.get x = { s.link.get x with inFlight := none, txBits := 0 } := by cases x <;> rfl

@[simp] theorem frameEnds_none (x : Axle) (s : State) : frameEnds x none s = frameCompletes x s := rfl

/-- A frame in flight that completes with no trip: the line is freed and the waiting frame starts. -/
theorem frameCompletes_inFlight {x : Axle} {s : State} (r : s.tb.refclk = true)
    (h : (s.link.get x).inFlight.isSome = true) : frameCompletes x s = startWaiting x (freeLine x s) := by
  obtain ⟨f, hf⟩ := Option.isSome_iff_exists.1 h
  simp [frameCompletes, r, hf]

/-- The trip that meets a completion, where a frame in flight completes. -/
theorem frameEnds_met {x : Axle} {m : MetTrip} {s : State} (r : s.tb.refclk = true)
    (h : (s.link.get x).inFlight.isSome = true) : frameEnds x (some m) s = meetTrip x m s := by
  simp [frameEnds, r, h]

/-- Where no frame in flight completes, no trip meets it. -/
theorem frameEnds_idle {x : Axle} {met : Option MetTrip} {s : State}
    (h : s.tb.refclk = false ∨ (s.link.get x).inFlight = none) : frameEnds x met s = frameCompletes x s := by
  cases met
  · rfl
  · rcases h with h | h <;> simp [frameEnds, h]

/-- The event's break starts on the free line. -/
theorem completesFirst_break {x : Axle} {event : State → State} {s : State}
    (h : (s.link.get x).inFlight.isSome = true) (b : ((event (freeLine x s)).link.get x).breakSending = true) :
    completesFirst x event s = event (freeLine x s) := by
  simp [completesFirst, h, b]

/-- An event that brings no break comes after the start of the waiting frame. -/
theorem completesFirst_noBreak {x : Axle} {event : State → State} {s : State}
    (h : (s.link.get x).inFlight.isSome = true) (b : ((event (freeLine x s)).link.get x).breakSending = false) :
    completesFirst x event s = event (startWaiting x (freeLine x s)) := by
  simp [completesFirst, h, b]

theorem completesFirst_idle {x : Axle} {event : State → State} {s : State} (h : (s.link.get x).inFlight = none) :
    completesFirst x event s = event s := by
  simp [completesFirst, h]

/-! ### What it may change -/

/-- What a completion may change, with the trip that meets it. -/
def frameEndParts : List Part := .requests :: ownerEventParts

theorem takeTripEvent_only (e : TripEvent) (s : State) : OnlyChanges frameEndParts s (takeTripEvent e s) := by
  have own {ps : List Part} (h : ps ⊆ ownerEventParts) {t : State} (o : OnlyChanges ps s t) : OnlyChanges frameEndParts s t :=
    o.mono fun _ m => List.mem_cons_of_mem _ (h m)
  have trips : tripParts ⊆ ownerEventParts := fun p m => by simp [ownerEventParts, rxParts, m]
  have period : periodParts ⊆ ownerEventParts := fun p m => by simp [ownerEventParts, m]
  have rx (x : Axle) : rxParts x ⊆ ownerEventParts := fun p m => by cases x <;> simp [ownerEventParts, m]
  have request {ps : List Part} (k : RequestKind) (owner : HostFrame → State → State)
      (h : ∀ f t, OnlyChanges ps t (owner f t)) (sub : ps ⊆ ownerEventParts) :
      OnlyChanges frameEndParts s (takeRequest k owner s) :=
    takeRequest_only k owner s (by simp [frameEndParts, ownerEventParts, rxParts, tripParts]) (by simp [frameEndParts])
      fun f t => (h f t).mono fun _ m => List.mem_cons_of_mem _ (sub m)
  have tests (cs : List FaultCode) (set : Nat) : ∀ t : State, OnlyChanges tripParts t (cs.foldl (testFault set) t) := by
    induction cs with
    | nil => exact fun t => .refl _ _
    | cons c rest ih => exact fun t => (OnlyChanges.ite (fun _ => .refl _ _) fun _ => signal_only _ _ _).trans (ih _)
  have tx : Part.tx ∈ tripParts := by simp [tripParts]
  unfold takeTripEvent
  cases e with
  | torqueOff => exact request _ _ (fun f t => reply_mono tx _ _ _ (trip_only _ _)) trips
  | faultTest =>
    refine request _ _ (fun f t => ?_) trips
    unfold ownerFaultTest
    dsimp only
    refine .ite (fun _ => reply_mono tx _ _ _ (.refl _ _)) fun _ => ?_
    exact .ite (fun _ => reply_mono tx _ _ _ (.refl _ _)) fun _ => reply_mono tx _ _ _ (tests _ _ _)
  | period through slip =>
    have o := own period (periodExpiry_only (tripStage through s) s slip)
    unfold takeDueTrip
    dsimp only
    split
    · rename_i w _
      refine o.trans (OnlyChanges.mono (ps := periodParts) ?_ fun _ m => List.mem_cons_of_mem _ (period m))
      exact (takeStaleTrip_only _ _ _).trans ((setSe_only _ _).mono (by simp [periodParts]))
    · exact o
  | linkTimer x =>
    exact .ite (fun _ => own (rx x) ((linkTimerExpires_only x s).mono (by simp [rxParts, tripParts]))) fun _ => .refl _ _
  | lineLow x => exact own (rx x) (lineLow_only x s)
  | windowEnd edges =>
    exact own (List.cons_subset.2 ⟨by simp [ownerEventParts], trips⟩) (judgeWindow_only edges s)

theorem line_frameEndParts (x : Axle) : [Part.line x, .seq x, .service x, .counters x] ⊆ frameEndParts := by
  cases x <;> simp [frameEndParts, ownerEventParts, rxParts, tripParts, periodParts]

theorem completesFirst_only (x : Axle) {event : State → State} (h : ∀ u, OnlyChanges frameEndParts u (event u)) (s : State) :
    OnlyChanges frameEndParts s (completesFirst x event s) := by
  have free := ((freeLine_only x s).mono (qs := [.line x, .seq x, .service x, .counters x]) (by simp))
  unfold completesFirst
  refine .ite (fun _ => ?_) fun _ => h s
  dsimp only
  refine .ite (fun _ => ?_) fun _ => ?_
  · exact (free.mono (line_frameEndParts x)).trans (h _)
  · exact ((free.trans (startWaiting_only x _)).mono (line_frameEndParts x)).trans (h _)

/-- A completion changes its link's line, seq, service slot and counters, and what the trip that meets it changes. -/
theorem frameEnds_only (x : Axle) (met : Option MetTrip) (s : State) : OnlyChanges frameEndParts s (frameEnds x met s) := by
  have plain := (frameCompletes_only x s).mono (line_frameEndParts x)
  unfold frameEnds meetTrip
  split
  · refine .ite (fun _ => completesFirst_only x (fun u => ?_) s) fun _ => plain
    split
    · exact completesFirst_only _ (takeTripEvent_only _) u
    · exact takeTripEvent_only _ u
  · exact plain

end Sys2Proof.Machine
end

