-- ==== Sys2Proof/Laws/Kept.lean ====
section
/-! SUPPORT. What a step can do, said once: a property that each primitive operation keeps, and that does not read the
parts outside `coreParts`, is kept by every command and every step. -/

namespace Sys2Proof.Machine

/-- The parts the properties of this file may read. -/
def coreParts : List Part :=
  [.se, .slots, .pt, .sm .front, .sm .rear, .linkState .front, .linkState .rear, .out, .oc, .fu, .part, .hostLink, .tb]

/-- The two states agree on the core parts. -/
def CoreSame (s t : State) : Prop := ∀ p ∈ coreParts, p.same s t

theorem OnlyChanges.core {ps : List Part} {s t : State} (h : OnlyChanges ps s t) (disj : ∀ p ∈ coreParts, p ∉ ps) :
    CoreSame s t := fun p hp => h p (disj p hp)

/-- `I` is kept by the primitive operations of everything that can be taken between two claims of a command: the period
operation, ARM, CAP WITHDRAW SOURCE and CAP LIST. -/
structure KeptBetween (I : State → Prop) : Prop where
  frame : ∀ {s t}, CoreSame s t → I s → I t
  se : ∀ (s : State) (v : SplitEngine), v.shortfallLive = s.se.shortfallLive →
    v.timerRunning = s.se.timerRunning → I s → I (s.setSe v)
  periodTake : ∀ s : State, I s →
    I (s.setPt (s.pt.periodTake (targetDrive (activeProfile s) s.di.rearLoad s.di.rearLoadKnown) (activeProfile s).regenShare))
  stale : ∀ s, I s → I (signalStale s)
  smDirection : ∀ (s : State) (x : Axle) (z : Int), I s → I (smDirection x z s)
  notice : ∀ (s : State) (n : Nat), I s → I (demandNotice n s)
  shortfall : ∀ (s : State) (w : PeriodWork), I s → I (stageMonitor w s).2
  trip : ∀ (s : State) (c : TripCause), I s → I (trip c s)
  arm : ∀ s, armRefusal s = none → I s → I (startArming s)
  trackWithdraw : ∀ (s : State) (x : Axle) (d : Direction), I s → I (withdrawInternal .track x d s)

/-- `I` is kept by every primitive operation. `Q` is what SETUP may assume of the state before it. An operation that makes
claims of its own is one with whatever is taken between them. -/
structure Kept (Q I : State → Prop) : Prop extends KeptBetween I where
  premise : ∀ {s t}, OnlyChanges [.queue, .requests] s t → Q s → Q t
  tb : ∀ (s : State) (v : Timebase), v.timebaseLive = s.tb.timebaseLive → I s → I (s.setTb v)
  select : ∀ (s : State) (n : Fin 8) (p : Profile), (s.pt.slots.get n).profile = some p → I s →
    I (s.setPt (s.pt.select n p))
  write : ∀ (s : State) (n : Fin 8) (p : Profile), n ≠ 0 → n ≠ s.pt.active → p.firstBad = none → I s →
    I (s.setPt { s.pt with slots := s.pt.slots.set n ((s.pt.slots.get n).written p) })
  capFull : ∀ s, I s → I (signalReporting .capFull .event s)
  noticeLost : ∀ s, I s → I (signalReporting .noticeLost .event s)
  hostLink : ∀ s, I s → I (evaluateHostLink s)
  inverter : ∀ (s : State) (x : Axle) (d : Direction) (n : Nat), I s → I (postInternal .inverter x d n s)
  trackPost : ∀ (s : State) (x : Axle) (d : Direction), I s → I (postInternal .track x d 0 s)
  smFrame : ∀ (s : State) (x : Axle) (f : StatusFrame) (st : LinkState), I s → I (smFrame x f st s)
  timebase : ∀ (s : State) (b : Bool) (gs : List (ClaimGap × Meanwhile)), I s → I (setTimebase b s (gaps gs))
  test : ∀ (s : State) (set : Nat) (c : FaultCode), I s → I (testFault set s c)
  faultRead : ∀ (s : State) (z : Bool), I s →
    I (updateAttn (s.setFu { s.fu with records := s.fu.records.mapAll fun _ r => r.afterRead z }))
  mask : ∀ (s : State) (set : Nat), I s →
    I (updateAttn (s.setFu { s.fu with records := s.fu.records.mapAll fun c r => { r with masked := setBit set c } }))
  disarm : ∀ s, I s → I (disarmFrom s)
  clear : ∀ s, s.oc.state = .tripped → lowestForcing s = none → I s → I (s.setOc { s.oc with state := .disarmed })
  window : ∀ s, I s → I (armWindowExpires s)
  countdown : ∀ s, I s → I (s.setOc { s.oc with armWindow := countDown s.oc.armWindow })
  move : ∀ (s : State) (x : Axle) (new : LinkState) (gs : List (ClaimGap × Meanwhile)), I s →
    I (moveLink x new s (gaps gs))
  ready : ∀ (s : State) (p : Params), Q s → s.hp.part = .standby → I s →
    I (readyEntry (s.setHp { s.hp with params := p, part := .ready }))
  reset : ∀ (s : State) (c : ResetCause), I (resetBlocks c s)

namespace KeptBetween

variable {I : State → Prop} (K : KeptBetween I)
include K

theorem only {ps : List Part} {s t : State} (h : OnlyChanges ps s t) (disj : ∀ p ∈ coreParts, p ∉ ps) (i : I s) : I t :=
  K.frame (h.core disj) i

theorem reply (f : HostFrame) (r : ResultCode) (p : List Byte) {s : State} (i : I s) : I (reply f r p s) :=
  K.only (reply_only f r p s) (by simp [coreParts]) i

/-! ### The period operation -/

theorem stageDemand (w : PeriodWork) {s : State} (i : I s) : I (stageDemand w s).2 := by
  unfold Machine.stageDemand
  dsimp only
  have h : I (demandTake s) := K.only (demandTake_only s) (by simp [coreParts]) i
  refine K.smDirection _ _ _ (K.smDirection _ _ _ ?_)
  split
  · exact K.stale _ h
  · exact h

theorem stageIssue (w : PeriodWork) {s : State} (i : I s) : I (stageIssue w s).2 := by
  unfold Machine.stageIssue
  refine K.se _ _ rfl rfl ?_
  refine K.only (takeIssue_only .rear _ _) (by simp [coreParts]) ?_
  exact K.only (takeIssue_only .front _ _) (by simp [coreParts]) i

theorem stageReport (w : PeriodWork) {s : State} (i : I s) : I (stageReport w s).2 := by
  unfold Machine.stageReport
  refine K.only (completePeriod_only _) (by simp [coreParts]) ?_
  unfold reportStep
  dsimp only
  split
  · exact K.se _ _ rfl rfl i
  · split
    · exact K.only (offerReport_only _ _) (by simp [coreParts]) (K.se _ _ rfl rfl i)
    · exact K.se _ _ rfl rfl i

theorem runStage (t : Stage) (w : PeriodWork) {s : State} (i : I s) : I (runStage t w s).2 := by
  cases t
  · exact K.stageDemand w i
  · exact K.notice _ _ i
  · exact K.periodTake _ i
  · exact i
  · exact i
  · exact i
  · exact i
  · exact i
  · exact i
  · exact K.stageIssue w i
  · exact K.shortfall _ _ i
  · exact K.stageReport w i

theorem takeStaleTrip (n : Nat) (w : PeriodWork) {s : State} (i : I s) : I (takeStaleTrip n w s).2 := by
  unfold Machine.takeStaleTrip
  split
  · exact K.trip _ _ i
  · exact i

theorem runStages (ts : List Stage) (w : PeriodWork) {s : State} (i : I s) : I (runStages ts w s).2 := by
  induction ts generalizing w s with
  | nil => exact i
  | cons t rest ih => exact ih _ (K.runStage t _ (K.takeStaleTrip _ w i))

theorem runUpTo (slip : SlipOrder) (last : Nat) (w : PeriodWork) {s : State} (i : I s) : I (runUpTo slip last w s).2 := by
  unfold Machine.runUpTo
  split
  · exact K.runStages _ _ (K.takeStaleTrip _ _ (K.runStages _ _ (K.runStages _ _ i)))
  · exact K.runStages _ _ i

theorem runOperation (w : PeriodWork) (through : Stage) (slip : SlipOrder) {s : State} (i : I s) :
    I (runOperation w through s slip) := by
  unfold Machine.runOperation
  dsimp only
  split
  · exact K.se _ _ rfl rfl (K.takeStaleTrip _ _ (K.runUpTo _ _ _ i))
  · exact K.se _ _ rfl rfl (K.runUpTo _ _ _ i)

theorem periodExpiry (through : Stage) (slip : SlipOrder) {s : State} (i : I s) : I (periodExpiry through s slip) := by
  unfold Machine.periodExpiry
  split
  · split
    · exact K.runOperation _ _ _ i
    · split
      · exact K.runOperation _ _ _ (K.se _ _ rfl rfl i)
      · exact i
  · exact i

theorem finishPeriod {s : State} (i : I s) : I (finishPeriod s) := by
  unfold Machine.finishPeriod
  split
  · exact K.runOperation _ _ _ i
  · exact i

/-! ### Requests -/

theorem takeRequest (k : RequestKind) (owner : HostFrame → State → State) {s : State} (i : I s)
    (h : ∀ f t, k.refusedByState t.hp.part = false → OnlyChanges [.requests] s t → I t → I (owner f t)) :
    I (takeRequest k owner s) := by
  unfold Machine.takeRequest
  split
  · exact i
  · split
    · have p : I (popRequest s) := K.only (popRequest_only s) (by simp [coreParts]) i
      unfold dispatch
      split
      · exact K.reply _ _ _ p
      · split
        · exact K.reply _ _ _ p
        · rename_i g; exact h _ _ (by simpa using g) (popRequest_only s) p
    · exact i

/-- A request whose owner changes no core part. -/
theorem plainRequest {ps : List Part} (k : RequestKind) (owner : HostFrame → State → State) {s : State} (i : I s)
    (h : ∀ f t, OnlyChanges ps t (owner f t)) (disj : ∀ p ∈ coreParts, p ∉ ps) : I (Machine.takeRequest k owner s) :=
  K.takeRequest k owner i fun f t _ _ j => K.only (h f t) disj j

theorem ownerArm (f : HostFrame) {s : State} (i : I s) : I (ownerArm f s) := by
  unfold Machine.ownerArm
  split
  · exact K.reply _ _ _ i
  · rename_i h; exact K.reply _ _ _ (K.arm _ h i)

theorem ownerCapWithdrawSource (f : HostFrame) {s : State} (i : I s) : I (ownerCapWithdrawSource f s) := by
  unfold Machine.ownerCapWithdrawSource
  split
  · exact K.reply _ _ _ i
  · exact K.reply _ _ _ (K.trackWithdraw _ _ _ (K.trackWithdraw _ _ _ (K.trackWithdraw _ _ _ (K.trackWithdraw _ _ _ i))))
  · exact K.reply _ _ _ i
  · exact K.reply _ _ _ (K.only (setPool_only _ _) (by simp [coreParts]) i)

/-! ### What is taken between two claims -/

theorem runMeanwhile (gap : ClaimGap) (m : Meanwhile) {s : State} (i : I s) : I (runMeanwhile gap m s) := by
  cases m
  · exact K.periodExpiry _ _ i
  · exact K.takeRequest _ _ i fun f _ _ _ j => K.ownerArm f j
  · exact K.takeRequest _ _ i fun f _ _ _ j => K.ownerCapWithdrawSource f j
  · exact K.plainRequest _ _ i ownerCapList_only (by simp [coreParts])

theorem gaps (gs : List (ClaimGap × Meanwhile)) (gap : ClaimGap) {s : State} (i : I s) : I (gaps gs gap s) := by
  unfold Machine.gaps
  induction gs generalizing s with
  | nil => exact i
  | cons e rest ih =>
    refine ih ?_
    dsimp only
    split
    · exact K.runMeanwhile _ _ i
    · exact i

end KeptBetween

namespace Kept

variable {Q I : State → Prop} (K : Kept Q I)
include K

/-! ### Links -/

theorem acceptState (x : Axle) (gs : List (ClaimGap × Meanwhile)) {s : State} (i : I s) :
    I (acceptState x s (Machine.gaps gs)) := by
  have rec' (n : Nat) : I (s.setLink x { s.link.get x with recovery := n }) := by
    refine K.only (ps := [.sync x]) ?_ (by cases x <;> simp [coreParts]) i
    apply setLink_only <;> simp
  unfold Machine.acceptState
  dsimp only
  split
  · exact K.move _ _ _ _ i
  · split
    · exact K.move _ _ _ _ (rec' _)
    · exact rec' _
  · split
    · exact K.move _ _ _ _ (rec' _)
    · exact rec' _
  all_goals exact i

theorem takeNotice (x : Axle) (c : Byte) (a : Nat) {s : State} (i : I s) : I (takeNotice x c a s) := by
  have note (v : AxleLink)
      (h : v = { s.link.get x with notice := v.notice, lostNotice := v.lostNotice, ackCode := v.ackCode, counters := v.counters }) :
      I (s.setLink x v) := by
    refine K.only (ps := [.notices x, .counters x]) ?_ (by cases x <;> simp [coreParts]) i
    rw [h]; apply setLink_only <;> simp
  unfold Machine.takeNotice
  dsimp only
  split
  · exact note _ rfl
  · split
    · exact note _ rfl
    · split
      · exact note _ rfl
      · exact K.noticeLost _ (note _ rfl)

theorem tmFrame (x : Axle) (f : StatusFrame) (gs : List (ClaimGap × Meanwhile)) {s : State} (i : I s) :
    I (tmFrame x f s (Machine.gaps gs)) := by
  have run (v : TrackingMonitor) : I (s.setTm x v) :=
    K.only (setTm_only s x v) (by cases x <;> simp [coreParts]) i
  unfold Machine.tmFrame
  split
  · exact K.only (countStaleEcho_only x s) (by cases x <;> simp [coreParts]) i
  · split
    · unfold tmJudge
      dsimp only
      split
      · split
        · exact K.trackPost _ _ _ (K.gaps gs _ (K.trackPost _ _ _ (run _)))
        · exact run _
      · exact run _
    · exact i

theorem acceptFrame (x : Axle) (f : StatusFrame) (gs : List (ClaimGap × Meanwhile)) {s : State} (i : I s) :
    I (acceptFrame x f s (Machine.gaps gs)) := by
  unfold Machine.acceptFrame
  refine K.tmFrame x f gs (K.gaps gs _ (K.smFrame _ x f _ (K.gaps gs _ (K.acceptState x gs ?_))))
  refine K.only (takeEcho_only x f.serviceEcho _) (by cases x <;> simp [coreParts]) (K.takeNotice x _ _ ?_)
  refine K.inverter _ _ _ _ (K.gaps gs _ (K.inverter _ _ _ _ ?_))
  exact K.only (acceptRecord_only x f s) (by cases x <;> simp [coreParts]) i

theorem badFrame (x : Axle) {s : State} (i : I s) : I (badFrame x s) := by
  have upd (v : AxleLink)
      (h : v = { s.link.get x with recovery := v.recovery, badRun := v.badRun, counters := v.counters }) :
      I (s.setLink x v) := by
    refine K.only (ps := [.sync x, .counters x]) ?_ (by cases x <;> simp [coreParts]) i
    rw [h]; apply setLink_only <;> simp
  unfold Machine.badFrame
  dsimp only
  split
  · split
    · exact K.move _ _ _ [] (upd _ rfl)
    · exact upd _ rfl
  all_goals exact upd _ rfl

theorem badFrames (x : Axle) (n : Nat) {s : State} (i : I s) : I (badFrames x n s) := by
  induction n generalizing s with
  | zero => exact i
  | succ n ih => exact ih (K.badFrame x i)

theorem setPartial (x : Axle) (b : List Byte) {s : State} (i : I s) : I (setPartial x b s) :=
  K.only (setPartial_only x b s) (by cases x <;> simp [coreParts]) i

theorem receiveByte (x : Axle) (b : Byte) (gs : List (ClaimGap × Meanwhile)) {s : State} (i : I s) :
    I (receiveByte x s b (Machine.gaps gs)) := by
  have hunting : I (huntingByte x b s (Machine.gaps gs)) := by
    unfold huntingByte
    dsimp only
    split
    · exact K.setPartial x _ i
    · split
      · exact K.acceptFrame x _ gs (K.setPartial x _ i)
      · exact K.badFrame x (K.setPartial x _ i)
  unfold Machine.receiveByte
  split
  · exact i
  · exact i
  · unfold syncedByte
    dsimp only
    split
    · exact K.setPartial x _ i
    · split
      · exact K.acceptFrame x _ gs (K.setPartial x _ i)
      · exact K.badFrame x (K.setPartial x _ i)
  all_goals exact hunting

theorem receiveBytes (x : Axle) (bytes : List Byte) (gs : List (ClaimGap × Meanwhile)) {s : State} (i : I s) :
    I (receiveBytes x bytes s (Machine.gaps gs)) := by
  unfold Machine.receiveBytes
  split
  · rename_i h; clear h
    induction bytes generalizing s with
    | nil => exact i
    | cons b rest ih => exact ih (K.receiveByte x b gs i)
  · exact i

theorem rx (x : Axle) (v : AxleLink) {s : State} (i : I s)
    (h : v = { s.link.get x with partialBytes := v.partialBytes, rxGapUs := v.rxGapUs, lowLineUs := v.lowLineUs }) :
    I (s.setLink x v) := by
  refine K.only (ps := [.rx x]) ?_ (by cases x <;> simp [coreParts]) i
  rw [h]; apply setLink_only <;> simp

theorem cutHunting (x : Axle) {s : State} (i : I s) : I (cutHunting x s) := by
  unfold Machine.cutHunting
  dsimp only
  split
  · exact K.badFrames x _ (K.rx x _ i rfl)
  · exact i

theorem framingErrorAt (x : Axle) {s : State} (i : I s) : I (framingErrorAt x s) := by
  unfold Machine.framingErrorAt
  split
  · exact i
  · exact i
  · exact K.badFrame x (K.rx x _ i rfl)
  all_goals exact K.cutHunting x i

theorem gapCutAt (x : Axle) {s : State} (i : I s) : I (gapCutAt x s) := by
  unfold Machine.gapCutAt
  split
  · exact i
  · exact i
  · split
    · exact i
    · exact K.badFrame x (K.rx x _ i rfl)
  all_goals exact K.cutHunting x i

theorem enterBroken (x : Axle) (gs : List (ClaimGap × Meanwhile)) {s : State} (i : I s) :
    I (enterBroken x s (Machine.gaps gs)) := by
  unfold Machine.enterBroken
  refine K.move _ _ _ _ (K.only (ps := [.sync x, .counters x]) ?_ (by cases x <;> simp [coreParts]) i)
  apply setLink_only <;> simp

theorem lineLow (x : Axle) (gs : List (ClaimGap × Meanwhile)) {s : State} (i : I s) :
    I (lineLow x s (Machine.gaps gs)) := by
  have cut : I (cutBeforeLow x s) := by
    unfold cutBeforeLow
    split
    · exact i
    · exact K.framingErrorAt x i
  unfold Machine.lineLow
  split
  · split
    · exact i
    · exact i
    all_goals exact K.enterBroken x gs (K.rx x _ cut rfl)
  · exact i

theorem lineHigh (x : Axle) {s : State} (i : I s) : I (lineHigh x s) := by
  have h : I (s.setLink x { s.link.get x with lowLineUs := 0 }) := K.rx x _ i rfl
  unfold Machine.lineHigh
  dsimp only
  split
  · refine K.move _ _ _ [] (K.only (ps := [.sync x]) ?_ (by cases x <;> simp [coreParts]) h)
    apply setLink_only <;> simp
  · exact h

theorem linkTimerExpires (x : Axle) (gs : List (ClaimGap × Meanwhile)) {s : State} (i : I s) :
    I (linkTimerExpires x s (Machine.gaps gs)) := by
  have upd : I (s.setLink x { s.link.get x with timer := none, recovery := 0 }) := by
    refine K.only (ps := [.sync x]) ?_ (by cases x <;> simp [coreParts]) i
    apply setLink_only <;> simp
  unfold Machine.linkTimerExpires
  dsimp only
  split
  · split
    · exact K.move _ _ _ _ upd
    · exact K.move _ _ _ _ upd
    · exact K.move _ _ _ _ upd
    · exact upd
    all_goals exact i
  · exact i

/-! ### Requests -/

theorem ownerSetup (f : HostFrame) {s : State} (q : Q s) (st : s.hp.part = .standby) (i : I s) :
    I (ownerSetup f s) := by
  unfold Machine.ownerSetup
  dsimp only
  split
  · exact K.reply _ _ _ i
  · exact K.reply _ _ _ (K.ready _ _ q st i)

theorem ownerParamSet (f : HostFrame) {s : State} (i : I s) : I (ownerParamSet f s) := by
  unfold Machine.ownerParamSet
  dsimp only
  split
  · exact K.reply _ _ _ i
  · refine K.reply _ _ _ ?_
    have h : I (s.setHp { s.hp with params := s.hp.params.write (u8At f.payload 0) (u16At f.payload 1) }) := by
      refine K.only (ps := [.params]) ?_ (by simp [coreParts]) i
      apply setHp_only <;> simp
    unfold writeParam
    dsimp only
    split
    · exact K.hostLink _ h
    · exact h

theorem ownerCapPost (f : HostFrame) {s : State} (i : I s) : I (ownerCapPost f s) := by
  unfold Machine.ownerCapPost
  dsimp only
  split
  · split
    · exact K.reply _ _ _ i
    · split
      · exact K.reply _ _ _ i
      · unfold postHost
        split
        · exact K.reply _ _ _ (K.capFull _ i)
        · exact K.reply _ _ _ (K.only (setPool_only _ _) (by simp [coreParts]) i)
  · exact K.reply _ _ _ i

end Kept

/-- What a write that passes the checks of R70 writes is in range, and its slot is neither 0 nor the active one. -/
theorem checkWrite_accept {t : ProfileTable} {n : Fin 8} {b : List Byte} {p : Profile}
    (h : checkWrite t n b = .accept p) : n ≠ 0 ∧ n ≠ t.active ∧ p.firstBad = none := by
  unfold checkWrite at h
  dsimp only at h
  split at h
  · cases h
  · split at h
    · cases h
    · split at h
      · cases h
      · split at h
        · cases h
        · split at h
          · cases h
          · split at h
            · cases h
            · split at h
              · cases h
              · cases h; exact ⟨by assumption, by assumption, by assumption⟩

namespace Kept

variable {Q I : State → Prop} (K : Kept Q I)
include K

theorem ownerProfileWrite (f : HostFrame) {s : State} (i : I s) : I (ownerProfileWrite f s) := by
  unfold Machine.ownerProfileWrite
  split
  · exact K.reply _ _ _ i
  · dsimp only
    split
    · exact K.reply _ _ _ i
    · rename_i h
      have ⟨a, b, c⟩ := checkWrite_accept h
      exact K.reply _ _ _ (K.write _ _ _ a b c i)

theorem ownerProfileSelect (f : HostFrame) {s : State} (i : I s) : I (ownerProfileSelect f s) := by
  unfold Machine.ownerProfileSelect
  dsimp only
  split
  · exact K.reply _ _ _ i
  · split
    · exact K.reply _ _ _ i
    · rename_i h
      split
      · exact K.reply _ _ _ i
      · exact K.reply _ _ _ (K.select _ _ _ h i)

theorem ownerDisarm (f : HostFrame) {s : State} (i : I s) : I (ownerDisarm f s) := by
  unfold Machine.ownerDisarm
  split
  · exact K.reply _ _ _ i
  · exact K.reply _ _ _ (K.disarm _ i)

theorem ownerClearTrip (f : HostFrame) {s : State} (i : I s) : I (ownerClearTrip f s) := by
  unfold Machine.ownerClearTrip
  split
  · rename_i t
    split
    · rename_i h; exact K.reply _ _ _ (K.clear _ t h i)
    · exact K.reply _ _ _ i
  · exact K.reply _ _ _ i

theorem ownerFaultMask (f : HostFrame) {s : State} (i : I s) : I (ownerFaultMask f s) := by
  unfold Machine.ownerFaultMask
  dsimp only
  split
  · exact K.reply _ _ _ i
  · exact K.reply _ _ _ (K.mask _ _ i)

theorem ownerFaultTest (f : HostFrame) {s : State} (i : I s) : I (ownerFaultTest f s) := by
  have tests (cs : List FaultCode) (set : Nat) : ∀ {t : State}, I t → I (cs.foldl (testFault set) t) := by
    induction cs with
    | nil => exact fun j => j
    | cons c rest ih => exact fun j => ih (K.test _ _ _ j)
  unfold Machine.ownerFaultTest
  dsimp only
  split
  · exact K.reply _ _ _ i
  · split
    · exact K.reply _ _ _ i
    · exact K.reply _ _ _ (tests _ _ i)

/-! ### The host port's line -/

theorem port (v : HostPort) {s : State} (i : I s) (h : v.part = s.hp.part ∧ v.hostLinkLive = s.hp.hostLinkLive) :
    I (s.setHp v) := by
  refine K.only (ps := [.tx, .skips, .requests, .dropped, .framer, .params, .cause, .syncPending]) ?_
    (by simp [coreParts]) i
  apply setHp_only <;> simp [h.1, h.2]

theorem hostByte (b : Byte) {s : State} (i : I s) : I (hostByte s b) := by
  have bad : I (badHostFrame s) := K.hostLink _ (K.port _ i ⟨rfl, rfl⟩)
  unfold Machine.hostByte
  split
  · split
    · exact K.port _ i ⟨rfl, rfl⟩
    · exact i
  · split
    · exact bad
    · exact K.port _ i ⟨rfl, rfl⟩
  · dsimp only
    split
    · exact K.port _ i ⟨rfl, rfl⟩
    · split
      · exact K.only (queueRequest_only _ _) (by simp [coreParts]) (K.hostLink _ (K.port _ i ⟨rfl, rfl⟩))
      · exact bad

theorem hostBytes (bytes : List Byte) {s : State} (i : I s) : I (hostBytes bytes s) := by
  unfold Machine.hostBytes
  split
  · rename_i h; clear h
    induction bytes generalizing s with
    | nil => exact i
    | cons b rest ih => exact ih (K.hostByte b i)
  · exact i

/-! ### The clock and the 1 ms timer -/

theorem judgeWindow (n : Nat) (gs : List (ClaimGap × Meanwhile)) {s : State} (i : I s) :
    I (judgeWindow n s (Machine.gaps gs)) := by
  unfold Machine.judgeWindow
  dsimp only
  split
  · split
    · exact K.timebase _ _ _ (K.tb _ _ rfl i)
    · exact K.tb _ _ rfl i
  · split
    · exact K.timebase _ _ _ (K.tb _ _ rfl i)
    · exact K.tb _ _ rfl i

theorem clockStops (m : Measures) {s : State} (i : I s) : I (clockStops m s) := by
  unfold Machine.clockStops Machine.holdMeasures
  split
  · replace i := K.finishPeriod i
    dsimp only
    refine K.only (hold_only .rear _ _) (by simp [coreParts]) ?_
    refine K.only (hold_only .front _ _) (by simp [coreParts]) ?_
    exact K.port _ (K.se _ _ rfl rfl (K.tb _ _ rfl i)) ⟨rfl, rfl⟩
  · exact i

theorem expireAllDue {s : State} (i : I s) : I (expireAllDue s) := by
  have due (t : TickTimer) {u : State} (j : I u) : I (expireDue u t) := by
    unfold expireDue
    split
    · cases t
      · exact K.window _ j
      · exact K.linkTimerExpires _ [] j
      · exact K.linkTimerExpires _ [] j
    · exact j
  have all (ts : List TickTimer) : ∀ {u : State}, I u → I (ts.foldl expireDue u) := by
    induction ts with
    | nil => exact fun j => j
    | cons t rest ih => exact fun j => ih (due t j)
  unfold Machine.expireAllDue
  split
  · exact all _ i
  · exact all _ (K.only (setFreeIndex_only _ _) (by simp [coreParts]) i)

theorem msTick {s : State} (i : I s) : I (msTick s) := by
  have timer (x : Axle) (n : Option Nat) {u : State} (j : I u) :
      I (u.setLink x { u.link.get x with timer := n }) := by
    refine K.only (ps := [.sync x]) ?_ (by cases x <;> simp [coreParts]) j
    apply setLink_only <;> simp
  unfold Machine.msTick
  split
  · exact i
  · refine K.expireAllDue ?_
    unfold countAllDown
    exact timer .rear _ (timer .front _ (K.countdown _ (K.only (setPool_only _ _) (by simp [coreParts]) i)))

/-! ### Commands and steps -/

theorem softwareReset (s : State) : I (softwareReset s) := by
  have tail (x : Axle) (t : LineTail) {u : State} (h : u.link.get x = AxleLink.reset) (j : I u) :
      I (u.setLink x { AxleLink.reset with tail := t }) := by
    refine K.only (ps := [.line x]) ?_ (by cases x <;> simp [coreParts]) j
    apply setLink_only <;> simp [h]
  unfold Machine.softwareReset
  exact tail .rear _ rfl (tail .front _ rfl (K.reset s .software))

/-- What a link's command of bytes that are judged bad does (R112, R113). -/
theorem receiveBad (x : Axle) (bytes : List Byte) (framingError : Bool) {s : State} (i : I s) :
    I (receiveBad x bytes framingError s) := by
  unfold Machine.receiveBad
  dsimp only
  split
  · exact K.framingErrorAt _ (K.receiveBytes _ _ [] i)
  · exact K.receiveBytes _ _ [] i

/-- An owner's event between two looks of a STATUS. -/
theorem takeOwnerEvent (e : OwnerEvent) {s : State} (i : I s) : I (takeOwnerEvent e s) := by
  have op {effect : State → State} (h : I (effect s)) : I (stateAfter (inOperation effect s) s) := by
    rw [stateAfter_inOperation]
    split
    · exact i
    · exact h
  have guarded {c : Prop} [Decidable c] {t : State} (h : I t) : I (if c then t else s) := by
    split
    · exact h
    · exact i
  unfold Machine.takeOwnerEvent
  cases e with
  | period through slip => exact op (effect := fun s => Machine.periodExpiry through s slip) (K.periodExpiry _ _ i)
  | armWindow => exact op (guarded (K.window _ i))
  | linkTimer x => exact op (guarded (K.linkTimerExpires x [] i))
  | statusFrame x bytes => exact op (K.receiveBytes x bytes [] i)
  | badFrame x bytes framingError => exact op (K.receiveBad x bytes framingError i)
  | gapCut x => exact op (guarded (K.gapCutAt x i))
  | lineLow x => exact op (K.lineLow x [] i)
  | lineHigh x => exact op (K.lineHigh x i)
  | windowEnd edges => exact op (effect := fun s => Machine.judgeWindow edges s (Machine.gaps [])) (K.judgeWindow edges [] i)

theorem afterLooks (during : List (List StatusItem × OwnerEvent)) {s : State} (i : I s) : I (afterLooks during s) := by
  induction during generalizing s with
  | nil => exact i
  | cons e rest ih => exact ih (K.takeOwnerEvent e.2 i)

/-! ### The completion of a command frame -/

theorem takeTripEvent (e : TripEvent) {s : State} (i : I s) : I (takeTripEvent e s) := by
  unfold Machine.takeTripEvent
  cases e with
  | torqueOff => exact K.takeRequest _ _ i fun f _ _ _ j => K.reply _ _ _ (K.trip _ _ j)
  | faultTest => exact K.takeRequest _ _ i fun f _ _ _ j => K.ownerFaultTest f j
  | period through slip =>
    have j : I (Machine.periodExpiry (tripStage through s) s slip) := K.periodExpiry _ _ i
    unfold takeDueTrip
    dsimp only
    split
    · exact K.se _ _ rfl rfl (K.takeStaleTrip _ _ j)
    · exact j
  | linkTimer x =>
    dsimp only
    split
    · exact K.linkTimerExpires x [] i
    · exact i
  | lineLow x => exact K.lineLow x [] i
  | windowEnd edges => exact K.judgeWindow edges [] i

theorem completesFirst (x : Axle) {event : State → State} (h : ∀ {u : State}, I u → I (event u)) {s : State} (i : I s) :
    I (completesFirst x event s) := by
  have free : I (freeLine x s) := K.only (freeLine_only x s) (by cases x <;> simp [coreParts]) i
  unfold Machine.completesFirst
  split
  · dsimp only
    split
    · exact h free
    · exact h (K.only (startWaiting_only x _) (by cases x <;> simp [coreParts]) free)
  · exact h i

theorem frameEnds (x : Axle) (met : Option MetTrip) {s : State} (i : I s) : I (frameEnds x met s) := by
  have plain : I (frameCompletes x s) := K.only (frameCompletes_only x s) (by cases x <;> simp [coreParts]) i
  unfold Machine.frameEnds meetTrip
  split
  · rename_i m
    split
    · refine K.completesFirst x (fun j => ?_) i
      split
      · exact K.completesFirst _ (K.takeTripEvent m.event) j
      · exact K.takeTripEvent m.event j
    · exact plain
  · exact plain

omit K in
/-- A command in operation, whatever it answers. -/
theorem inOp {effect : State → State} {s t : State} (i : I s) (h : I s → I (effect s))
    (e : inOperation effect s = .next t) : I t := by
  unfold inOperation at e
  cases e
  split
  · exact i
  · exact h i

/-- Every command keeps the property. -/
theorem exec (c : Instr) {s t : State} (q : Q s) (i : I s) (e : exec c s = .next t) : I t := by
  cases c
  · cases e; exact K.reset s .power
  · cases e; exact K.only (setResetnLow_only _ _) (by simp [coreParts]) (K.reset s .pin)
  · cases e; exact K.only (setResetnLow_only _ _) (by simp [coreParts]) i
  · refine inOp i (fun i => ?_) e
    split
    · exact K.softwareReset s
    · exact i
  · exact inOp i (fun i => K.hostBytes _ i) e
  · refine inOp i (fun i => ?_) e
    unfold hostGap
    split
    · exact K.hostLink _ (K.port _ i ⟨rfl, rfl⟩)
    · exact i
  · exact inOp i (fun i => K.only (hostFrameSent_only s) (by simp [coreParts]) i) e
  · refine inOp i (fun i => K.takeRequest _ _ i fun f t r o j => K.ownerSetup f (K.premise (o.mono (by simp)) q) ?_ j) e
    cases h : t.hp.part
    · rfl
    · simp [h, RequestKind.refusedByState] at r
  · exact inOp i (fun i => K.plainRequest _ _ i ownerReset_only (by simp [coreParts])) e
  · exact inOp i (fun i => K.takeRequest _ _ i fun f _ _ _ j => K.reply _ _ _ (K.afterLooks _ j)) e
  · exact inOp i (fun i => K.takeRequest _ _ i fun f _ _ _ j => K.ownerParamSet f j) e
  · exact inOp i (fun i => K.plainRequest _ _ i ownerParamGet_only (by simp [coreParts])) e
  · exact inOp i (fun i => K.plainRequest _ _ i ownerSync_only (by simp [coreParts])) e
  · exact inOp i (fun i => K.only (takeUnknown_only s) (by simp [coreParts]) i) e
  · exact inOp i (fun i => K.plainRequest _ _ i ownerDemand_only (by simp [coreParts])) e
  · exact inOp i (fun i => K.takeRequest _ _ i fun f _ _ _ j => K.ownerCapPost f j) e
  · exact inOp i (fun i => K.plainRequest _ _ i ownerCapWithdraw_only (by simp [coreParts])) e
  · exact inOp i (fun i => K.takeRequest _ _ i fun f _ _ _ j => K.ownerCapWithdrawSource f j) e
  · exact inOp i (fun i => K.plainRequest _ _ i ownerCapList_only (by simp [coreParts])) e
  · exact inOp i (fun i => K.takeRequest _ _ i fun f _ _ _ j => K.ownerProfileWrite f j) e
  · exact inOp i (fun i => K.plainRequest _ _ i ownerProfileCheck_only (by simp [coreParts])) e
  · exact inOp i (fun i => K.plainRequest _ _ i ownerProfileRead_only (by simp [coreParts])) e
  · exact inOp i (fun i => K.takeRequest _ _ i fun f _ _ _ j => K.ownerProfileSelect f j) e
  · exact inOp i (fun i => K.plainRequest _ _ i ownerLinkQuery_only (by simp [coreParts])) e
  · exact inOp i (fun i => K.plainRequest _ _ i ownerLinkPost_only (by simp [coreParts])) e
  · exact inOp i (fun i => K.takeRequest _ _ i fun f _ _ _ j => K.ownerArm f j) e
  · exact inOp i (fun i => K.takeRequest _ _ i fun f _ _ _ j => K.ownerDisarm f j) e
  · exact inOp i (fun i => K.takeRequest _ _ i fun f _ _ _ j => K.reply _ _ _ (K.trip _ _ j)) e
  · exact inOp i (fun i => K.takeRequest _ _ i fun f _ _ _ j => K.ownerClearTrip f j) e
  · exact inOp i (fun i => K.takeRequest _ _ i fun f _ _ _ j => K.reply _ _ _ (K.faultRead _ _ j)) e
  · exact inOp i (fun i => K.takeRequest _ _ i fun f _ _ _ j => K.ownerFaultMask f j) e
  · exact inOp i (fun i => K.takeRequest _ _ i fun f _ _ _ j => K.ownerFaultTest f j) e
  · rename_i through slip
    exact inOp (effect := fun s => Machine.periodExpiry through s slip) i (fun i => K.periodExpiry _ _ i) e
  · refine inOp i (fun i => ?_) e
    split
    · exact K.only (hostEntryExpires_only _ _ _ _) (by simp [coreParts]) i
    · exact i
  · refine inOp i (fun i => ?_) e
    split
    · exact K.window _ i
    · exact i
  · refine inOp i (fun i => ?_) e
    split
    · exact K.linkTimerExpires _ _ i
    · exact i
  · exact inOp i (fun i => K.frameEnds _ _ i) e
  · rename_i x
    exact inOp i (fun i => K.only (breakEnds_only x s) (by cases x <;> simp [coreParts]) i) e
  · refine inOp i (fun i => ?_) e
    exact K.receiveBytes _ _ _ i
  · exact inOp i (fun i => K.receiveBad _ _ _ i) e
  · refine inOp i (fun i => ?_) e
    split
    · exact K.gapCutAt _ i
    · exact i
  · refine inOp i (fun i => ?_) e
    exact K.lineLow _ _ i
  · exact inOp i (fun i => K.lineHigh _ i) e
  · rename_i n gs
    exact inOp (effect := fun s => Machine.judgeWindow n s (Machine.gaps gs)) i (fun i => K.judgeWindow _ _ i) e
  · cases e; exact K.clockStops _ i
  · cases e
    exact K.only (startHostFrame_only _) (by simp [coreParts]) (K.tb _ _ rfl i)

/-- Every step keeps the property. -/
theorem step {s t : State} (q : Q s) (i : I s) (e : step s = .next t) : I t := by
  unfold Machine.step at e
  split at e
  · cases e; exact K.msTick i
  · rename_i c rest _
    have o : OnlyChanges [.queue] s (s.setPending rest) := by
      intro p hp; cases p <;> simp_all [Part.same]
    exact K.exec c (K.premise (o.mono (by simp)) q) (K.only o (by simp [coreParts]) i) e

end Kept

end Sys2Proof.Machine
end

