-- ==== Sys2Proof/Laws/Trip.lean ====
section
/-! SUPPORT. What a trip and a full fault signal leave at Output Control and at the fault records. -/

namespace Sys2Proof.Machine

/-- Output Control after a trip (R136). -/
def tripOc (cause : TripCause) (period : Nat) (o : OutputControl) : OutputControl :=
  match o.state with
  | .tripped => o
  | .disarmed => { o with state := .tripped, tripRecord := some ⟨cause, period⟩ }
  | .arming => { o with state := .tripped, tripRecord := some ⟨cause, period⟩, armWindow := none, lastOutcome := .trip }
  | .armed => { o with state := .tripped, tripRecord := some ⟨cause, period⟩, enF := false, enR := false }

theorem torqueOffBreak_oc (x : Axle) (s : State) : (torqueOffBreak x s).oc = s.oc :=
  (torqueOffBreak_only x s).oc_eq (by simp)

theorem notifyLeavingArmed_oc (s : State) : (notifyLeavingArmed s).oc = s.oc :=
  (notifyLeavingArmed_only s).oc_eq (by simp)

/-- A trip sets Output Control as R136 says; in STANDBY it changes nothing (R127). -/
theorem trip_oc (cause : TripCause) (s : State) :
    (trip cause s).oc = if s.hp.part = .standby then s.oc else tripOc cause s.se.periodNumber s.oc := by
  unfold trip tripOc
  split
  · rfl
  · cases h : s.oc.state <;> simp [torqueOffBreak_oc, notifyLeavingArmed_oc]

theorem tripOc_state (cause : TripCause) (n : Nat) (o : OutputControl) : (tripOc cause n o).state = .tripped := by
  unfold tripOc; split <;> first | assumption | rfl

theorem trip_standby {s : State} (h : s.hp.part = .standby) (cause : TripCause) : trip cause s = s := by
  simp [trip, h]

theorem trip_tripped {s : State} (h : s.oc.state = .tripped) (cause : TripCause) : trip cause s = s := by
  unfold trip; split <;> simp [h]

/-- Output Control after FU has taken a signal: a trip where it gives a forcing notice (R143, R144). -/
theorem signal_oc (c : FaultCode) (ch : FaultChange) (s : State) :
    (signal c ch s).oc =
      if givesForcingNotice c (faultRecord c s) ch = true then
        (if s.hp.part = .standby then s.oc else tripOc (.fault c) s.se.periodNumber s.oc)
      else s.oc := by
  unfold signal
  dsimp only
  rw [(actOutward_only _ _ _).oc_eq (by simp)]
  split
  · rw [trip_oc]
    simp [(takeAtRecord_only c ch s).oc_eq, (takeAtRecord_only c ch s).part_eq, (takeAtRecord_only c ch s).se_eq]
  · rw [(takeAtRecord_only c ch s).oc_eq (by simp)]

/-- After FU has taken a signal, ATTN stands as R145 says. -/
theorem signal_attn (c : FaultCode) (ch : FaultChange) (s : State) :
    (signal c ch s).fu.attn = attnLevel s.hp.part (signal c ch s).fu.records := by
  have h : OnlyChanges tripParts s (if givesForcingNotice c (faultRecord c s) ch = true then trip (.fault c) (takeAtRecord c ch s)
      else takeAtRecord c ch s) := by
    have h := (takeAtRecord_only c ch s).mono (qs := tripParts) (by simp [tripParts])
    exact .ite (fun _ => h.trans (trip_only _ _)) fun _ => h
  unfold signal
  dsimp only
  rw [actOutward_attn, actOutward_records, h.part_eq (by simp [tripParts])]

end Sys2Proof.Machine
end

