-- ==== Sys2Proof/Laws/Quiet.lean ====
section
/-! SUPPORT. Signals that send nothing: a condition that ends changes the Fault Unit alone, so withdrawals, the notices that
OC has left ARMED and the trip reach no frame of the host port; and what a signal can send at most. -/

namespace Sys2Proof.Machine

theorem FaultRecord.occurs_off (r : FaultRecord) : r.occurs (.live false) = false := by
  cases h : r.live <;> cases k : r.test <;> simp [FaultRecord.occurs, FaultRecord.present, FaultRecord.fieldsAfter, h, k]

/-- A signal that does not latch sends no notice. -/
theorem actOutward_quiet {c : FaultCode} {old : FaultRecord} {s : State}
    (h : old.latched = true ∨ (faultRecord c s).latched = false) : actOutward c old s = updateAttn s := by
  unfold actOutward
  have : (faultRecord c (updateAttn s)).latched = (faultRecord c s).latched := rfl
  rcases h with h | h <;> simp [h, this]

/-- A condition that ends changes the Fault Unit alone (R143). -/
theorem signalReporting_off (c : FaultCode) (s : State) :
    signalReporting c (.live false) s = updateAttn (takeAtRecord c (.live false) s) := by
  unfold signalReporting
  apply actOutward_quiet
  cases h : (faultRecord c s).latched
  · right
    simp [takeAtRecord, FaultRecord.take_latched, FaultRecord.occurs_off, h]
  · left; rfl

theorem signalReporting_off_only (c : FaultCode) (s : State) : OnlyChanges [.fu] s (signalReporting c (.live false) s) := by
  rw [signalReporting_off]
  exact (takeAtRecord_only _ _ _).trans (updateAttn_only _)

theorem withdrawInternal_quiet (src : InternalSource) (x : Axle) (d : Direction) (s : State) :
    OnlyChanges [.slots, .fu] s (withdrawInternal src x d s) := by
  unfold withdrawInternal
  have h := (setSlot_only src x d none s).mono (qs := [.slots, .fu]) (by simp)
  exact .ite (fun _ => h.trans ((signalReporting_off_only _ _).mono (by simp))) fun _ => h

theorem smLeavesArmed_quiet (x : Axle) (s : State) : OnlyChanges [.sm x, .slots, .fu] s (smLeavesArmed x s) := by
  unfold smLeavesArmed
  dsimp only
  have h : OnlyChanges [.sm x, .slots, .fu] s
      (match (s.sm.get x).cap, (s.sm.get x).counting with
       | some _, some d => withdrawInternal .slip x d s
       | _, _ => s) := by
    split
    · exact (withdrawInternal_quiet _ _ _ _).mono (by simp)
    · exact .refl _ _
  have k := h.trans ((setSm_only _ x ⟨.idle, (s.sm.get x).monitored, none, 0, none, false⟩).mono (by simp))
  exact .ite (fun _ => k.trans ((signalReporting_off_only _ _).mono (by simp))) fun _ => k

/-- What the notices that OC has left ARMED may change (R95, R100). -/
def leavingParts : List Part := [.sm .front, .sm .rear, .tm .front, .tm .rear, .slots, .fu]

theorem notifyLeavingArmed_quiet (s : State) : OnlyChanges leavingParts s (notifyLeavingArmed s) := by
  unfold notifyLeavingArmed
  exact ((((smLeavesArmed_quiet .front s).mono (by simp [leavingParts])).trans
    ((smLeavesArmed_quiet .rear _).mono (by simp [leavingParts]))).trans
    ((tmLeavesArmed_only .front _).mono (by simp [leavingParts]))).trans
    ((tmLeavesArmed_only .rear _).mono (by simp [leavingParts]))

/-- A trip changes Output Control, both transmit lines, and what the leaving notices change; it sends nothing. -/
theorem trip_quiet (cause : TripCause) (s : State) :
    OnlyChanges ([.oc, .line .front, .line .rear] ++ leavingParts) s (trip cause s) := by
  have brk {t : State} (h : OnlyChanges ([.oc, .line .front, .line .rear] ++ leavingParts) s t) :
      OnlyChanges ([.oc, .line .front, .line .rear] ++ leavingParts) s (torqueOffBreak .rear (torqueOffBreak .front t)) :=
    (h.trans ((torqueOffBreak_only .front _).mono (by simp))).trans ((torqueOffBreak_only .rear _).mono (by simp))
  have oc (v : OutputControl) : OnlyChanges ([.oc, .line .front, .line .rear] ++ leavingParts) s (s.setOc v) :=
    (setOc_only s v).mono (by simp)
  unfold trip
  split
  · exact .refl _ _
  · split
    · exact .refl _ _
    · exact brk (oc _)
    · exact brk (oc _)
    · exact brk ((oc _).trans ((notifyLeavingArmed_quiet _).mono (List.subset_append_right _ _)))

/-- A link after the trip notice (R110). -/
theorem torqueOffBreak_link (x : Axle) (s : State) :
    (torqueOffBreak x s).link = s.link.set x
      { s.link.get x with inFlight := none, txBits := 0, waiting := none, breakSending := true } := rfl

theorem notifyLeavingArmed_link (s : State) : (notifyLeavingArmed s).link = s.link := by
  unfold notifyLeavingArmed smLeavesArmed tmLeavesArmed
  have w (src : InternalSource) (x : Axle) (d : Direction) (t : State) : (withdrawInternal src x d t).link = t.link := by
    unfold withdrawInternal; dsimp only; split
    · rw [signalReporting_off]; rfl
    · rfl
  simp only [State.setTm_link]
  repeat' split
  all_goals simp [signalReporting_off, updateAttn, takeAtRecord, setFaultRecord, w]

/-- A trip brings both links the torque-off break (R110, R136). -/
theorem trip_link {s : State} (ready : s.hp.part ≠ .standby) (h : s.oc.state ≠ .tripped) (cause : TripCause) (z : Axle) :
    (trip cause s).link.get z
      = { s.link.get z with inFlight := none, txBits := 0, waiting := none, breakSending := true } := by
  have brk {t : State} (e : t.link = s.link) : (torqueOffBreak .rear (torqueOffBreak .front t)).link.get z
      = { s.link.get z with inFlight := none, txBits := 0, waiting := none, breakSending := true } := by
    cases z <;> simp only [torqueOffBreak_link, e] <;> rfl
  unfold trip
  rw [if_neg ready]
  split
  · contradiction
  · exact brk rfl
  · exact brk rfl
  · exact brk (notifyLeavingArmed_link _)

/-! ### What a signal can send -/

/-- The frames on their way out are the same, or were none and now are one FAULT NOTICE (R146, R161). -/
def NoticeStep (s t : State) : Prop :=
  (outbox t = outbox s ∨ (outbox s = [] ∧ ∃ g : HostFrame, g.kind = 0xE1#8 ∧ outbox t = [g]))
    ∧ t.hp.resetTaken = s.hp.resetTaken

theorem NoticeStep.refl (s : State) : NoticeStep s s := ⟨.inl rfl, rfl⟩

theorem NoticeStep.trans {s t u : State} (h : NoticeStep s t) (k : NoticeStep t u) : NoticeStep s u := by
  obtain ⟨h | ⟨h0, g, hg, h⟩, hr⟩ := h
  · obtain ⟨k | ⟨k0, g, hg, k⟩, kr⟩ := k
    · exact ⟨.inl (k.trans h), kr.trans hr⟩
    · exact ⟨.inr ⟨h ▸ k0, g, hg, k⟩, kr.trans hr⟩
  · obtain ⟨k | ⟨k0, -⟩, kr⟩ := k
    · exact ⟨.inr ⟨h0, g, hg, k.trans h⟩, kr.trans hr⟩
    · rw [h] at k0; simp at k0

theorem NoticeStep.of_only {ps : List Part} {s t : State} (h : OnlyChanges ps s t) (n : Part.tx ∉ ps)
    (m : Part.cause ∉ ps) : NoticeStep s t := ⟨.inl (h.outbox_eq n), h.resetTaken_eq m⟩

theorem offerNotice_step (p : List Byte) (s : State) : NoticeStep s (offerNotice p s) := by
  unfold offerNotice
  split
  · rename_i h
    simp [admitsUnsolicited] at h
    refine ⟨.inr ⟨by simp [outbox, h], ⟨0xE1#8, 0, p⟩, rfl, ?_⟩, (enqueueFrame_only _ _).resetTaken_eq (by simp)⟩
    simp [outbox_enqueueFrame]; simp [outbox, h]
  · exact ⟨.inl rfl, rfl⟩

theorem actOutward_step (c : FaultCode) (old : FaultRecord) (s : State) : NoticeStep s (actOutward c old s) := by
  have h : NoticeStep s (updateAttn s) := .of_only (updateAttn_only s) (by simp) (by simp)
  unfold actOutward
  dsimp only
  split
  · refine h.trans ?_
    unfold considerNotice
    dsimp only
    split
    · exact offerNotice_step _ _
    · exact .refl _
  · exact h

theorem signalReporting_step (c : FaultCode) (ch : FaultChange) (s : State) : NoticeStep s (signalReporting c ch s) :=
  .trans (.of_only (takeAtRecord_only c ch s) (by simp) (by simp)) (actOutward_step _ _ _)

theorem signal_step (c : FaultCode) (ch : FaultChange) (s : State) : NoticeStep s (signal c ch s) := by
  have h : NoticeStep s (takeAtRecord c ch s) := .of_only (takeAtRecord_only c ch s) (by simp) (by simp)
  unfold signal
  dsimp only
  split
  · exact (h.trans (.of_only (trip_quiet _ _) (by simp [leavingParts]) (by simp [leavingParts]))).trans (actOutward_step _ _ _)
  · exact h.trans (actOutward_step _ _ _)

theorem evaluateHostLink_step (s : State) : NoticeStep s (evaluateHostLink s) := by
  unfold evaluateHostLink
  dsimp only
  split
  · exact .refl _
  · exact .trans (t := s.setHp _) ⟨.inl rfl, rfl⟩ (signalReporting_step _ _ _)

/-! ### Answers -/

/-- A request answered after effects that send nothing. -/
theorem answered_reply {ps : List Part} {f : HostFrame} {s t : State} (h : OnlyChanges ps (popRequest s) t)
    (n : Part.tx ∉ ps) (m : Part.requests ∉ ps) (r : ResultCode) (p : List Byte) : Answered f r p s (reply f r p t) := by
  refine ⟨?_, ?_⟩
  · rw [(reply_only f r p t).requestQueue_eq (by simp), h.requestQueue_eq m]; rfl
  · rw [outbox_reply, h.outbox_eq n]; rfl

/-- A request answered after effects that may send a notice. -/
theorem answeredAfterNotice_reply {f : HostFrame} {s t : State} (h : NoticeStep (popRequest s) t)
    (q : t.hp.requestQueue = s.hp.requestQueue.tail) (r : ResultCode) (p : List Byte) :
    AnsweredAfterNotice f r p s (reply f r p t) := by
  refine ⟨?_, ?_⟩
  · rw [(reply_only f r p t).requestQueue_eq (by simp), q]
  · have e : outbox (popRequest s) = outbox s := rfl
    obtain ⟨h | ⟨h0, g, hg, h⟩, -⟩ := h
    · refine ⟨[], by simp, by simp, ?_⟩
      rw [outbox_reply, h, e]; simp [replyFrame]
    · refine ⟨[g], by simp, by simp [hg], ?_⟩
      rw [outbox_reply, h, ← e, h0]; simp [replyFrame]

end Sys2Proof.Machine
end

