-- ==== Sys2Proof/Laws/Records.lean ====
section
/-! SUPPORT. The fault records after each operation: which record it changes, and to what (R143); and what a link state
change leaves of the link, the slots, the out record and the records (R118 to R120). -/

namespace Sys2Proof.Machine

/-! ### One record after an operation -/

theorem faultRecord_of_fu {s t : State} (h : t.fu = s.fu) (d : FaultCode) : faultRecord d t = faultRecord d s := by
  simp [faultRecord, h]

theorem OnlyChanges.faultRecord_eq {ps : List Part} {s t : State} (h : OnlyChanges ps s t) (n : Part.fu ∉ ps)
    (d : FaultCode) : faultRecord d t = faultRecord d s := faultRecord_of_fu (h.fu_eq n) d

theorem faultRecord_takeAtRecord (c d : FaultCode) (ch : FaultChange) (s : State) :
    faultRecord d (takeAtRecord c ch s) = if d = c then (faultRecord c s).take ch else faultRecord d s := by
  simp [faultRecord, takeAtRecord, setFaultRecord, FaultRecords.get_set]

@[simp] theorem faultRecord_actOutward (c d : FaultCode) (old : FaultRecord) (s : State) :
    faultRecord d (actOutward c old s) = faultRecord d s := by
  simp [faultRecord]

theorem faultRecord_signalReporting (c d : FaultCode) (ch : FaultChange) (s : State) :
    faultRecord d (signalReporting c ch s) = if d = c then (faultRecord c s).take ch else faultRecord d s := by
  simp [signalReporting, faultRecord_takeAtRecord]

theorem faultRecord_withdraw {src : InternalSource} (h : src ≠ .track) (x : Axle) (e : Direction) (d : FaultCode) (s : State) :
    faultRecord d (withdrawInternal src x e s) = faultRecord d s := by
  rw [withdrawInternal_eq_setSlot h]; rfl

theorem faultRecord_post {src : InternalSource} (h : src ≠ .track) (x : Axle) (e : Direction) (n : Nat) (d : FaultCode)
    (s : State) : faultRecord d (postInternal src x e n s) = faultRecord d s := by
  rw [postInternal_eq_setSlot h]; rfl

/-- The leaving notice changes the record of the axle's slip fault, where it was live, and no other (R95). -/
theorem faultRecord_smLeavesArmed (x : Axle) (d : FaultCode) (s : State) :
    faultRecord d (smLeavesArmed x s) =
      if d = slipFault x ∧ (s.sm.get x).live = true then (faultRecord d s).take (.live false) else faultRecord d s := by
  have w : ∀ e, faultRecord d (withdrawInternal .slip x e s) = faultRecord d s := fun e => faultRecord_withdraw (by decide) x e d s
  have w' : ∀ e, faultRecord (slipFault x) (withdrawInternal .slip x e s) = faultRecord (slipFault x) s :=
    fun e => faultRecord_withdraw (by decide) x e _ s
  have k (v : SlipMonitor) (t : State) (c : FaultCode) : faultRecord c (t.setSm x v) = faultRecord c t := rfl
  unfold smLeavesArmed
  dsimp only
  cases hl : (s.sm.get x).live <;> simp only [Bool.false_eq_true, and_false, if_false, if_true, and_true]
  · rw [k]; split <;> simp [w]
  · rw [faultRecord_signalReporting]
    by_cases hd : d = slipFault x
    · subst hd; simp only [if_true, k]; split <;> simp [w']
    · simp only [hd, if_false, k]; split <;> simp [w]

theorem faultRecord_notifyLeavingArmed (d : FaultCode) (s : State) :
    faultRecord d (notifyLeavingArmed s) =
      if (d = .slipF ∧ s.sm.front.live = true) ∨ (d = .slipR ∧ s.sm.rear.live = true) then (faultRecord d s).take (.live false)
      else faultRecord d s := by
  have t (x : Axle) (u : State) : faultRecord d (tmLeavesArmed x u) = faultRecord d u := rfl
  have r : (smLeavesArmed .front s).sm.get .rear = s.sm.get .rear := (smLeavesArmed_only .front s).sm_eq .rear (by simp)
  unfold notifyLeavingArmed
  rw [t, t, faultRecord_smLeavesArmed, faultRecord_smLeavesArmed, r]
  cases d <;> simp [slipFault]

/-- A trip leaves every record but those of the slip faults (R136). -/
theorem faultRecord_trip {d : FaultCode} (hf : d ≠ .slipF) (hr : d ≠ .slipR) (cause : TripCause) (s : State) :
    faultRecord d (trip cause s) = faultRecord d s := by
  have b (x : Axle) (t : State) : faultRecord d (torqueOffBreak x t) = faultRecord d t := rfl
  have n (t : State) : faultRecord d (notifyLeavingArmed t) = faultRecord d t := by
    rw [faultRecord_notifyLeavingArmed]; simp [hf, hr]
  unfold trip
  split
  · rfl
  · split
    · rfl
    · rfl
    · rfl
    · rw [b, b, n]; rfl

theorem givesForcingNotice_reporting {c : FaultCode} (h : c.forcing = false) (r : FaultRecord) (ch : FaultChange) :
    givesForcingNotice c r ch = false := by
  cases ch <;> simp [givesForcingNotice, h]
  rintro rfl; cases h

/-- A signal of a REPORTING fault trips nothing (R143). -/
theorem signal_eq_signalReporting {c : FaultCode} (h : c.forcing = false) (ch : FaultChange) (s : State) :
    signal c ch s = signalReporting c ch s := by
  simp [signal, signalReporting, givesForcingNotice_reporting h]

/-- A signal changes its own record, and by a trip those of the slip faults (R143). -/
theorem faultRecord_signal {d : FaultCode} (hf : d ≠ .slipF) (hr : d ≠ .slipR) (c : FaultCode) (ch : FaultChange) (s : State) :
    faultRecord d (signal c ch s) = if d = c then (faultRecord c s).take ch else faultRecord d s := by
  unfold signal
  dsimp only
  rw [faultRecord_actOutward]
  split
  · rw [faultRecord_trip hf hr, faultRecord_takeAtRecord]
  · rw [faultRecord_takeAtRecord]

/-- The slip records after a signal of a fault that is none of them. -/
theorem FaultRecord.take_live_off (r : FaultRecord) : r.take (.live false) = { r with live := false } := by
  simp [FaultRecord.take, FaultRecord.occurs_off, FaultRecord.fieldsAfter]

@[simp] theorem FaultRecord.take_live_live (r : FaultRecord) (b : Bool) : (r.take (.live b)).live = b := by
  simp only [FaultRecord.take, FaultRecord.fieldsAfter]; split <;> rfl

@[simp] theorem FaultRecord.take_test_live (r : FaultRecord) (b : Bool) : (r.take (.test b)).live = r.live := by
  simp only [FaultRecord.take, FaultRecord.fieldsAfter]; split <;> rfl

@[simp] theorem FaultRecord.take_test_test (r : FaultRecord) (b : Bool) : (r.take (.test b)).test = b := by
  simp only [FaultRecord.take, FaultRecord.fieldsAfter]; split <;> rfl

@[simp] theorem FaultRecord.take_live_test (r : FaultRecord) (b : Bool) : (r.take (.live b)).test = r.test := by
  simp only [FaultRecord.take, FaultRecord.fieldsAfter]; split <;> rfl

@[simp] theorem FaultRecord.take_event_live (r : FaultRecord) : (r.take .event).live = r.live := by
  simp [FaultRecord.take, FaultRecord.fieldsAfter, FaultRecord.occurs]

@[simp] theorem FaultRecord.take_event_test (r : FaultRecord) : (r.take .event).test = r.test := by
  simp [FaultRecord.take, FaultRecord.fieldsAfter, FaultRecord.occurs]

/-! ### What a reporting signal leaves alone -/

/-- A reporting signal changes the Fault Unit and the host port, and no other field of the state. -/
theorem signalReporting_form (c : FaultCode) (ch : FaultChange) (s : State) :
    ∃ fu hp, signalReporting c ch s = { s with fu := fu, hp := hp } := by
  have st (t : State) : ∃ hp, startHostFrame t = { t with hp := hp } := by
    unfold startHostFrame; split
    · exact ⟨_, rfl⟩
    · exact ⟨t.hp, rfl⟩
  have of (p : List Byte) (t : State) : ∃ hp, offerNotice p t = { t with hp := hp } := by
    unfold offerNotice enqueueFrame
    split
    · obtain ⟨hp, h⟩ := st (t.setHp { t.hp with txQueue := t.hp.txQueue ++ [⟨0xE1#8, 0, p⟩] })
      exact ⟨hp, h⟩
    · exact ⟨_, rfl⟩
  unfold signalReporting actOutward considerNotice
  dsimp only
  split
  · split
    · obtain ⟨hp, h⟩ := of (u8 c.code ++ u8 (flag c.forcing)
        ++ u8 (faultRecord c (updateAttn (takeAtRecord c ch s))).count) (updateAttn (takeAtRecord c ch s))
      exact ⟨_, hp, h⟩
    · exact ⟨_, s.hp, rfl⟩
  · exact ⟨_, s.hp, rfl⟩

section
variable (c : FaultCode) (ch : FaultChange) (s : State)

@[simp] theorem signalReporting_se : (signalReporting c ch s).se = s.se := by
  obtain ⟨_, _, h⟩ := signalReporting_form c ch s; rw [h]
@[simp] theorem signalReporting_di : (signalReporting c ch s).di = s.di := by
  obtain ⟨_, _, h⟩ := signalReporting_form c ch s; rw [h]
@[simp] theorem signalReporting_ct : (signalReporting c ch s).ct = s.ct := by
  obtain ⟨_, _, h⟩ := signalReporting_form c ch s; rw [h]
@[simp] theorem signalReporting_pt : (signalReporting c ch s).pt = s.pt := by
  obtain ⟨_, _, h⟩ := signalReporting_form c ch s; rw [h]
@[simp] theorem signalReporting_sm : (signalReporting c ch s).sm = s.sm := by
  obtain ⟨_, _, h⟩ := signalReporting_form c ch s; rw [h]
@[simp] theorem signalReporting_tm : (signalReporting c ch s).tm = s.tm := by
  obtain ⟨_, _, h⟩ := signalReporting_form c ch s; rw [h]
@[simp] theorem signalReporting_link : (signalReporting c ch s).link = s.link := by
  obtain ⟨_, _, h⟩ := signalReporting_form c ch s; rw [h]
@[simp] theorem signalReporting_out : (signalReporting c ch s).out = s.out := by
  obtain ⟨_, _, h⟩ := signalReporting_form c ch s; rw [h]
@[simp] theorem signalReporting_oc : (signalReporting c ch s).oc = s.oc := by
  obtain ⟨_, _, h⟩ := signalReporting_form c ch s; rw [h]
@[simp] theorem signalReporting_tb : (signalReporting c ch s).tb = s.tb := by
  obtain ⟨_, _, h⟩ := signalReporting_form c ch s; rw [h]
@[simp] theorem signalReporting_part : (signalReporting c ch s).hp.part = s.hp.part :=
  (signalReporting_only c ch s).part_eq (by simp)
end

/-! ### A link state change -/

/-- The link has its new state (R104). -/
@[simp] theorem moveLink_state (x : Axle) (new : LinkState) (s : State) : ((moveLink x new s).link.get x).state = new := by
  have sig (c : FaultCode) (b : Bool) (t : State) : ((signalReporting c (.live b) t).link.get x).state = (t.link.get x).state :=
    (signalReporting_only _ _ _).linkState_eq x (by simp)
  refine moveLink_keeps (P := fun t => (t.link.get x).state = new) x new s (by simp) ?_ ?_ ?_ ?_ ?_
  · intro t h; rw [(postLinkCaps_only x t).linkState_eq x (by simp)]; exact h
  · intro t h; rw [(withdrawLinkCaps_only x t).linkState_eq x (by simp)]; exact h
  · intro c b t h; rw [sig]; exact h
  · intro b t h; rw [(outClaim_only x b t).linkState_eq x (by simp [tripParts])]; exact h
  · intro t h; rw [(linkLeftSynced_only t).linkState_eq x (by simp)]; exact h

theorem postLinkCaps_eq (x : Axle) (s : State) :
    postLinkCaps x s = setSlot .link x .regen (some ⟨0, s.se.periodNumber⟩)
      (setSlot .link x .drive (some ⟨0, s.se.periodNumber⟩) s) := by
  simp [postLinkCaps, postInternal_eq_setSlot, setSlot]

theorem withdrawLinkCaps_eq (x : Axle) (s : State) :
    withdrawLinkCaps x s = setSlot .link x .regen none (setSlot .link x .drive none s) := by
  simp [withdrawLinkCaps, withdrawInternal_eq_setSlot]

/-- The slots after a trip: the SLIP entries of the monitors that had a cap go, the others stay (R95, R136). -/
theorem trip_slots {src : InternalSource} (h : src ≠ .slip) (cause : TripCause) (s : State) (z : Axle) (d : Direction) :
    (trip cause s).ct.slots.get src z d = s.ct.slots.get src z d := by
  have sl (x : Axle) (t : State) : (smLeavesArmed x t).ct.slots.get src z d = t.ct.slots.get src z d := by
    have w (y : Direction) : (withdrawInternal .slip x y t).ct.slots.get src z d = t.ct.slots.get src z d := by
      rw [withdrawInternal_slots, InternalSlots.get_set]; simp [h]
    have k (v : SlipMonitor) (u : State) : (u.setSm x v).ct = u.ct := rfl
    unfold smLeavesArmed
    dsimp only
    split
    · rw [signalReporting_ct, k]; split <;> simp only [w]
    · rw [k]; split <;> simp only [w]
  have n (t : State) : (notifyLeavingArmed t).ct.slots.get src z d = t.ct.slots.get src z d := by
    show (smLeavesArmed .rear (smLeavesArmed .front t)).ct.slots.get src z d = _
    rw [sl, sl]
  have b (x : Axle) (t : State) : (torqueOffBreak x t).ct = t.ct := rfl
  unfold trip
  split
  · rfl
  · split
    · rfl
    · rfl
    · rfl
    · rw [b, b, n]; rfl

theorem signal_slots {src : InternalSource} (h : src ≠ .slip) (c : FaultCode) (ch : FaultChange) (s : State) (z : Axle)
    (d : Direction) : (signal c ch s).ct.slots.get src z d = s.ct.slots.get src z d := by
  unfold signal
  dsimp only
  rw [(actOutward_only _ _ _).slots_eq (by simp)]
  split
  · rw [trip_slots h]; rfl
  · rfl

theorem outClaim_slots {src : InternalSource} (h : src ≠ .slip) (x : Axle) (b : Bool) (s : State) (z : Axle)
    (d : Direction) : (outClaim x b s).ct.slots.get src z d = s.ct.slots.get src z d := by
  unfold outClaim
  dsimp only
  split
  · rfl
  · rw [signal_slots h]; rfl

/-- The out record after a claim (R120). -/
theorem outClaim_out (x : Axle) (b : Bool) (s : State) :
    (outClaim x b s).out =
      { s.out.claim x b with noAxleLive := (s.out.claim x b).frontOut && (s.out.claim x b).rearOut } := by
  unfold outClaim
  dsimp only
  split
  · rename_i h; rw [h]; rfl
  · rw [(signal_only _ _ _).out_eq (by simp [tripParts])]; rfl

/-- The slots after a link state change: the LINK entries of its axle come, go or stay; those of SLIP apart, the others
stay (R118). -/
theorem moveLink_slots {src : InternalSource} (h : src ≠ .slip) (x : Axle) (new : LinkState) (s : State) (z : Axle)
    (d : Direction) :
    (moveLink x new s).ct.slots.get src z d =
      if src = .link ∧ z = x then
        if !(s.link.get x).state.isBlocked && new.isBlocked then some ⟨0, s.se.periodNumber⟩
        else if (s.link.get x).state.isBlocked && !new.isBlocked then none
        else s.ct.slots.get src z d
      else s.ct.slots.get src z d := by
  have l (t : State) : (linkLeftSynced t).ct = t.ct := by unfold linkLeftSynced; split <;> rfl
  have p (e : Option CapSlot) (y : Direction) (t : State) :
      (setSlot .link x y e t).ct.slots.get src z d
        = if src = .link ∧ z = x ∧ d = y then e else t.ct.slots.get src z d := by
    simp [setSlot, InternalSlots.get_set]
  have q (e : Option CapSlot) (t : State) :
      (setSlot .link x .regen e (setSlot .link x .drive e t)).ct.slots.get src z d
        = if src = .link ∧ z = x then e else t.ct.slots.get src z d := by
    rw [p, p]; cases d <;> by_cases h1 : src = .link <;> by_cases h2 : z = x <;> simp [h1, h2]
  have k (t : State) : (t.setLink x { s.link.get x with state := new }).ct = t.ct := rfl
  have n (t : State) : (t.setLink x { s.link.get x with state := new }).se = t.se := rfl
  generalize hv : ({ s.link.get x with state := new } : AxleLink) = v at *
  cases ho : (s.link.get x).state <;> cases new <;>
    simp [moveLink, ho, hv, LinkState.isBlocked, LinkState.isOut, postLinkCaps_eq, withdrawLinkCaps_eq, outClaim_slots h, l, q]

@[simp] theorem postLinkCaps_out (x : Axle) (s : State) : (postLinkCaps x s).out = s.out := by rw [postLinkCaps_eq]; rfl
@[simp] theorem postLinkCaps_oc (x : Axle) (s : State) : (postLinkCaps x s).oc = s.oc := by rw [postLinkCaps_eq]; rfl
@[simp] theorem postLinkCaps_fu (x : Axle) (s : State) : (postLinkCaps x s).fu = s.fu := by rw [postLinkCaps_eq]; rfl
@[simp] theorem postLinkCaps_hp (x : Axle) (s : State) : (postLinkCaps x s).hp = s.hp := by rw [postLinkCaps_eq]; rfl
@[simp] theorem postLinkCaps_se (x : Axle) (s : State) : (postLinkCaps x s).se = s.se := by rw [postLinkCaps_eq]; rfl
@[simp] theorem withdrawLinkCaps_out (x : Axle) (s : State) : (withdrawLinkCaps x s).out = s.out := by
  rw [withdrawLinkCaps_eq]; rfl
@[simp] theorem withdrawLinkCaps_oc (x : Axle) (s : State) : (withdrawLinkCaps x s).oc = s.oc := by
  rw [withdrawLinkCaps_eq]; rfl
@[simp] theorem withdrawLinkCaps_fu (x : Axle) (s : State) : (withdrawLinkCaps x s).fu = s.fu := by
  rw [withdrawLinkCaps_eq]; rfl
@[simp] theorem withdrawLinkCaps_hp (x : Axle) (s : State) : (withdrawLinkCaps x s).hp = s.hp := by
  rw [withdrawLinkCaps_eq]; rfl
@[simp] theorem withdrawLinkCaps_se (x : Axle) (s : State) : (withdrawLinkCaps x s).se = s.se := by
  rw [withdrawLinkCaps_eq]; rfl

/-- The out record after a link state change (R120). -/
theorem moveLink_out (x : Axle) (new : LinkState) (s : State) :
    (moveLink x new s).out =
      if (s.link.get x).state.isOut = new.isOut then s.out
      else { s.out.claim x new.isOut with
             noAxleLive := (s.out.claim x new.isOut).frontOut && (s.out.claim x new.isOut).rearOut } := by
  have l (t : State) : (linkLeftSynced t).out = t.out := by unfold linkLeftSynced; split <;> rfl
  generalize hv : ({ s.link.get x with state := new } : AxleLink) = v at *
  cases ho : (s.link.get x).state <;> cases new <;>
    simp [moveLink, ho, hv, LinkState.isBlocked, LinkState.isOut, l, outClaim_out]

/-- A claim that changes no condition changes the out record alone (R120). -/
theorem outClaim_quiet {x : Axle} {b : Bool} {s : State}
    (h : ((s.out.claim x b).frontOut && (s.out.claim x b).rearOut) = s.out.noAxleLive) : outClaim x b s = s.setOut (s.out.claim x b) := by
  have : (s.out.claim x b).noAxleLive = s.out.noAxleLive := by cases x <;> rfl
  simp [outClaim, h, this]

theorem faultRecord_outClaim {d : FaultCode} (hf : d ≠ .slipF) (hr : d ≠ .slipR) (x : Axle) (b : Bool) (s : State) :
    faultRecord d (outClaim x b s) =
      if d = .noAxle ∧ ((s.out.claim x b).frontOut && (s.out.claim x b).rearOut) ≠ s.out.noAxleLive then
        (faultRecord d s).take (.live ((s.out.claim x b).frontOut && (s.out.claim x b).rearOut))
      else faultRecord d s := by
  have k : (s.out.claim x b).noAxleLive = s.out.noAxleLive := by cases x <;> rfl
  by_cases h : ((s.out.claim x b).frontOut && (s.out.claim x b).rearOut) = s.out.noAxleLive
  · rw [outClaim_quiet h]; simp [h]; rfl
  · have e : outClaim x b s = signal .noAxle (.live ((s.out.claim x b).frontOut && (s.out.claim x b).rearOut))
        (s.setOut { s.out.claim x b with
          noAxleLive := (s.out.claim x b).frontOut && (s.out.claim x b).rearOut }) := by
      unfold outClaim; dsimp only; rw [k, if_neg h]
    rw [e, faultRecord_signal hf hr]
    by_cases hd : d = .noAxle
    · subst hd; simp [h]; rfl
    · simp [hd]; rfl

/-- The record of a fault other than the link's own two and NO_AXLE is left by a link state change; slip faults apart. -/
theorem faultRecord_moveLink_other {d : FaultCode} (hf : d ≠ .slipF) (hr : d ≠ .slipR) (x : Axle) (new : LinkState) (s : State)
    (h1 : d ≠ linkLostFault x) (h2 : d ≠ linkBreakFault x) (h3 : d ≠ .noAxle) :
    faultRecord d (moveLink x new s) = faultRecord d s := by
  have l (t : State) : faultRecord d (linkLeftSynced t) = faultRecord d t := by unfold linkLeftSynced; split <;> rfl
  have o (b : Bool) (t : State) : faultRecord d (outClaim x b t) = faultRecord d t := by
    rw [faultRecord_outClaim hf hr]; simp [h3]
  have p (t : State) : faultRecord d (postLinkCaps x t) = faultRecord d t := faultRecord_of_fu (postLinkCaps_fu x t) _
  have w (t : State) : faultRecord d (withdrawLinkCaps x t) = faultRecord d t := faultRecord_of_fu (withdrawLinkCaps_fu x t) _
  generalize hv : ({ s.link.get x with state := new } : AxleLink) = v at *
  have k : faultRecord d (s.setLink x v) = faultRecord d s := rfl
  cases ho : (s.link.get x).state <;> cases new <;>
    simp [moveLink, ho, hv, LinkState.isBlocked, LinkState.isOut, l, o, p, w, k, h1, h2, faultRecord_signalReporting]

/-- LINK_x_LOST after a link state change of that link (R119). -/
theorem faultRecord_moveLink_lost (x : Axle) (new : LinkState) (s : State) :
    faultRecord (linkLostFault x) (moveLink x new s) =
      if (s.link.get x).state = .lost ∧ new ≠ .lost then (faultRecord (linkLostFault x) s).take (.live false)
      else if (s.link.get x).state ≠ .lost ∧ new = .lost then (faultRecord (linkLostFault x) s).take (.live true)
      else faultRecord (linkLostFault x) s := by
  have l (t : State) : faultRecord (linkLostFault x) (linkLeftSynced t) = faultRecord (linkLostFault x) t := by
    unfold linkLeftSynced; split <;> rfl
  have o (b : Bool) (t : State) : faultRecord (linkLostFault x) (outClaim x b t) = faultRecord (linkLostFault x) t := by
    rw [faultRecord_outClaim (by cases x <;> decide) (by cases x <;> decide)]; cases x <;> simp [linkLostFault]
  have p (t : State) : faultRecord (linkLostFault x) (postLinkCaps x t) = faultRecord (linkLostFault x) t :=
    faultRecord_of_fu (postLinkCaps_fu x t) _
  have w (t : State) : faultRecord (linkLostFault x) (withdrawLinkCaps x t) = faultRecord (linkLostFault x) t :=
    faultRecord_of_fu (withdrawLinkCaps_fu x t) _
  have n : linkLostFault x ≠ linkBreakFault x := by cases x <;> decide
  generalize hv : ({ s.link.get x with state := new } : AxleLink) = v at *
  have k : faultRecord (linkLostFault x) (s.setLink x v) = faultRecord (linkLostFault x) s := rfl
  cases ho : (s.link.get x).state <;> cases new <;>
    simp [moveLink, ho, hv, LinkState.isBlocked, LinkState.isOut, l, o, p, w, k, n, faultRecord_signalReporting]

/-- LINK_x_BREAK after a link state change of that link (R119). -/
theorem faultRecord_moveLink_break (x : Axle) (new : LinkState) (s : State) :
    faultRecord (linkBreakFault x) (moveLink x new s) =
      if (s.link.get x).state = .broken ∧ new ≠ .broken then (faultRecord (linkBreakFault x) s).take (.live false)
      else if (s.link.get x).state ≠ .broken ∧ new = .broken then (faultRecord (linkBreakFault x) s).take (.live true)
      else faultRecord (linkBreakFault x) s := by
  have l (t : State) : faultRecord (linkBreakFault x) (linkLeftSynced t) = faultRecord (linkBreakFault x) t := by
    unfold linkLeftSynced; split <;> rfl
  have o (b : Bool) (t : State) : faultRecord (linkBreakFault x) (outClaim x b t) = faultRecord (linkBreakFault x) t := by
    rw [faultRecord_outClaim (by cases x <;> decide) (by cases x <;> decide)]; cases x <;> simp [linkBreakFault]
  have p (t : State) : faultRecord (linkBreakFault x) (postLinkCaps x t) = faultRecord (linkBreakFault x) t :=
    faultRecord_of_fu (postLinkCaps_fu x t) _
  have w (t : State) : faultRecord (linkBreakFault x) (withdrawLinkCaps x t) = faultRecord (linkBreakFault x) t :=
    faultRecord_of_fu (withdrawLinkCaps_fu x t) _
  have n : linkBreakFault x ≠ linkLostFault x := by cases x <;> decide
  generalize hv : ({ s.link.get x with state := new } : AxleLink) = v at *
  have k : faultRecord (linkBreakFault x) (s.setLink x v) = faultRecord (linkBreakFault x) s := rfl
  cases ho : (s.link.get x).state <;> cases new <;>
    simp [moveLink, ho, hv, LinkState.isBlocked, LinkState.isOut, l, o, p, w, k, n, faultRecord_signalReporting]

/-- NO_AXLE after a link state change (R120). -/
theorem faultRecord_moveLink_noAxle (x : Axle) (new : LinkState) (s : State) :
    faultRecord .noAxle (moveLink x new s) =
      if (moveLink x new s).out.noAxleLive = s.out.noAxleLive then faultRecord .noAxle s
      else (faultRecord .noAxle s).take (.live (moveLink x new s).out.noAxleLive) := by
  have l (t : State) : faultRecord .noAxle (linkLeftSynced t) = faultRecord .noAxle t := by unfold linkLeftSynced; split <;> rfl
  have o (b : Bool) (t : State) := faultRecord_outClaim (d := .noAxle) (by decide) (by decide) x b t
  have p (t : State) : faultRecord .noAxle (postLinkCaps x t) = faultRecord .noAxle t := faultRecord_of_fu (postLinkCaps_fu x t) _
  have w (t : State) : faultRecord .noAxle (withdrawLinkCaps x t) = faultRecord .noAxle t :=
    faultRecord_of_fu (withdrawLinkCaps_fu x t) _
  have n1 : FaultCode.noAxle ≠ linkLostFault x := by cases x <;> decide
  have n2 : FaultCode.noAxle ≠ linkBreakFault x := by cases x <;> decide
  rw [moveLink_out]
  generalize hv : ({ s.link.get x with state := new } : AxleLink) = v at *
  have k : faultRecord .noAxle (s.setLink x v) = faultRecord .noAxle s := rfl
  cases ho : (s.link.get x).state <;> cases new <;>
    simp [moveLink, ho, hv, LinkState.isBlocked, LinkState.isOut, l, o, p, w, k, n1, n2, faultRecord_signalReporting]

/-! ### A link state change that trips nothing -/

/-- A condition that ends trips nothing (R143). -/
theorem signal_off (c : FaultCode) (s : State) : signal c (.live false) s = signalReporting c (.live false) s := by
  have : givesForcingNotice c (faultRecord c s) (.live false) = false := by
    simp [givesForcingNotice, FaultRecord.occurs_off]
  simp [signal, signalReporting, this]

/-- A claim that does not make NO_AXLE live trips nothing (R120). -/
theorem outClaim_only_quiet {x : Axle} {b : Bool} {s : State}
    (h : ((s.out.claim x b).frontOut && (s.out.claim x b).rearOut) = true → s.out.noAxleLive = true) :
    OnlyChanges [.out, .fu, .tx, .skips] s (outClaim x b s) := by
  have k : (s.out.claim x b).noAxleLive = s.out.noAxleLive := by cases x <;> rfl
  unfold outClaim
  dsimp only
  rw [k]
  refine .ite (fun _ => (setOut_only _ _).mono (by simp)) fun e => ?_
  have f : ((s.out.claim x b).frontOut && (s.out.claim x b).rearOut) = false := by
    cases hb : ((s.out.claim x b).frontOut && (s.out.claim x b).rearOut)
    · rfl
    · rw [h hb] at e; exact absurd hb e
  rw [f, signal_off]
  exact ((setOut_only _ _).mono (by simp)).trans ((signalReporting_only _ _ _).mono (by simp))

/-- A link state change that does not make NO_AXLE live changes neither monitors nor transmit lines (R118 to R120). -/
theorem moveLink_only_quiet {x : Axle} {new : LinkState} {s : State}
    (h : (s.link.get x).state.isOut ≠ new.isOut →
      ((s.out.claim x new.isOut).frontOut && (s.out.claim x new.isOut).rearOut) = true → s.out.noAxleLive = true) :
    OnlyChanges [.linkState x, .slots, .out, .oc, .fu, .tx, .skips] s (moveLink x new s) := by
  have base : OnlyChanges [.linkState x] s (s.setLink x { s.link.get x with state := new }) := by
    apply setLink_only <;> simp
  have i {ps : List Part} {c : Prop} [Decidable c] {t u : State} (ht : c → OnlyChanges ps s t) (hu : ¬c → OnlyChanges ps s u) :
      OnlyChanges ps s (if c then t else u) := .ite ht hu
  have sig {c : FaultCode} {b : Bool} {t : State} (k : OnlyChanges [.linkState x, .slots, .fu, .tx, .skips] s t) :
      OnlyChanges [.linkState x, .slots, .fu, .tx, .skips] s (signalReporting c (.live b) t) :=
    k.trans ((signalReporting_only _ _ _).mono (by simp))
  unfold moveLink
  dsimp only
  have s2 : OnlyChanges [.linkState x, .slots, .fu, .tx, .skips] s
      (if (!(s.link.get x).state.isBlocked && new.isBlocked) = true then
        postLinkCaps x (s.setLink x { s.link.get x with state := new })
      else if ((s.link.get x).state.isBlocked && !new.isBlocked) = true then
        withdrawLinkCaps x (s.setLink x { s.link.get x with state := new })
      else s.setLink x { s.link.get x with state := new }) :=
    i (fun _ => (base.mono (by simp)).trans ((postLinkCaps_only _ _).mono (by simp))) fun _ =>
      i (fun _ => (base.mono (by simp)).trans ((withdrawLinkCaps_only _ _).mono (by simp))) fun _ => base.mono (by simp)
  have s3 := i (c := (s.link.get x).state = .lost ∧ new ≠ .lost) (fun _ => sig (c := linkLostFault x) (b := false) s2) fun _ => s2
  have s4 := i (c := (s.link.get x).state = .broken ∧ new ≠ .broken) (fun _ => sig (c := linkBreakFault x) (b := false) s3) fun _ => s3
  have s5 := i (c := (s.link.get x).state ≠ .lost ∧ new = .lost) (fun _ => sig (c := linkLostFault x) (b := true) s4) fun _ => s4
  have s6 := i (c := (s.link.get x).state ≠ .broken ∧ new = .broken) (fun _ => sig (c := linkBreakFault x) (b := true) s5) fun _ => s5
  have s7 := i (ps := [.linkState x, .slots, .out, .oc, .fu, .tx, .skips]) (u := outClaim x new.isOut _)
    (c := (s.link.get x).state.isOut = new.isOut) (fun _ => s6.mono (by simp)) fun e => by
      refine (s6.mono (by simp)).trans ((outClaim_only_quiet ?_).mono (by simp))
      rw [s6.out_eq (by simp)]; exact h e
  exact i (fun _ => s7.trans ((linkLeftSynced_only _).mono (by simp))) fun _ => s7

theorem outClaim_oc_quiet {x : Axle} {b : Bool} {s : State}
    (h : ((s.out.claim x b).frontOut && (s.out.claim x b).rearOut) = true → s.out.noAxleLive = true) :
    (outClaim x b s).oc = s.oc := (outClaim_only_quiet h).oc_eq (by simp)

/-- Output Control after a link state change that does not make NO_AXLE live: ARMING ends where the link leaves SYNCED
(R134). -/
theorem moveLink_oc_quiet {x : Axle} {new : LinkState} {s : State}
    (h : (s.link.get x).state.isOut ≠ new.isOut →
      ((s.out.claim x new.isOut).frontOut && (s.out.claim x new.isOut).rearOut) = true → s.out.noAxleLive = true) :
    (moveLink x new s).oc =
      if (s.link.get x).state = .synced ∧ new ≠ .synced ∧ s.oc.state = .arming then
        { s.oc with state := .disarmed, armWindow := none, lastOutcome := .link }
      else s.oc := by
  obtain ⟨g, hg, l⟩ : ∃ g : OutputControl → OutputControl,
      (∀ o, g o = if o.state = .arming then { o with state := .disarmed, armWindow := none, lastOutcome := .link } else o)
        ∧ ∀ t, (linkLeftSynced t).oc = g t.oc := by
    refine ⟨_, fun o => rfl, fun t => ?_⟩
    unfold linkLeftSynced; split <;> rfl
  have o (t : State) (k : t.out = s.out) (e : (s.link.get x).state.isOut ≠ new.isOut) :
      (outClaim x new.isOut t).oc = t.oc := outClaim_oc_quiet (by rw [k]; exact h e)
  generalize hv : ({ s.link.get x with state := new } : AxleLink) = v at *
  cases ho : (s.link.get x).state <;> cases new <;> rw [ho] at o <;>
    simp [moveLink, ho, hv, LinkState.isBlocked, LinkState.isOut, l] at o ⊢ <;>
    (try rw [o _ (by simp)]) <;> simp [hg]

end Sys2Proof.Machine
end

