-- ==== Sys2Proof/Laws/Notices.lean ====
section
/-! SUPPORT. What one signal does in the terms of the statements: the record it takes, the records it leaves, and the FAULT NOTICE
it offers. -/

namespace Sys2Proof.Machine

/-! ### The record -/

theorem FaultRecord.take_live_eq (r : FaultRecord) (b : Bool) :
    r.take (.live b) = { r with
      live := b
      latched := r.latched || (b && !r.present)
      count := if b = true ∧ r.present = false then min (r.count + 1) 255 else r.count } := by
  obtain ⟨l, t, h, m, n⟩ := r
  cases l <;> cases t <;> cases h <;> cases b <;> rfl

theorem FaultRecord.take_event_eq (r : FaultRecord) :
    r.take .event = { r with latched := true, count := min (r.count + 1) 255 } := rfl

theorem liveTaken_of_take {c : FaultCode} {b : Bool} {s t : State}
    (h : faultRecord c t = (faultRecord c s).take (.live b)) : LiveTaken c b s t := by
  rw [LiveTaken, h, FaultRecord.take_live_eq]

theorem liveTaken_signalReporting (c : FaultCode) (b : Bool) (s : State) :
    LiveTaken c b s (signalReporting c (.live b) s) := liveTaken_of_take (by simp [faultRecord_signalReporting])

theorem eventTaken_signalReporting (c : FaultCode) (s : State) : EventTaken c s (signalReporting c .event s) := by
  simp [EventTaken, faultRecord_signalReporting, FaultRecord.take_event_eq]

/-- A FORCING fault's record after a signal: the trip changes the slip faults' records only (R136, R143). -/
theorem liveTaken_signal {c : FaultCode} (hf : c ≠ .slipF) (hr : c ≠ .slipR) (b : Bool) (s : State) :
    LiveTaken c b s (signal c (.live b) s) := liveTaken_of_take (by simp [faultRecord_signal hf hr])

/-! ### The other records -/

theorem OnlyFaults.refl (cs : List FaultCode) (s : State) : OnlyFaults cs s s := fun _ _ => rfl

theorem OnlyFaults.trans {cs : List FaultCode} {s t u : State} (h : OnlyFaults cs s t) (k : OnlyFaults cs t u) :
    OnlyFaults cs s u := fun c n => (k c n).trans (h c n)

theorem OnlyFaults.mono {cs ds : List FaultCode} {s t : State} (h : OnlyFaults cs s t) (sub : ∀ c ∈ cs, c ∈ ds) :
    OnlyFaults ds s t := fun c n => h c fun m => n (sub c m)

theorem OnlyChanges.onlyFaults {ps : List Part} {s t : State} (h : OnlyChanges ps s t) (n : Part.fu ∉ ps) :
    OnlyFaults [] s t := fun c _ => h.faultRecord_eq n c

theorem onlyFaults_signalReporting (c : FaultCode) (ch : FaultChange) (s : State) :
    OnlyFaults [c] s (signalReporting c ch s) := fun d n => by
  rw [faultRecord_signalReporting, if_neg (by simpa using n)]

theorem onlyFaults_trip (cause : TripCause) (s : State) : OnlyFaults [.slipF, .slipR] s (trip cause s) := fun d n => by
  simp only [List.mem_cons, List.not_mem_nil, or_false, not_or] at n
  exact faultRecord_trip n.1 n.2 cause s

theorem onlyFaults_signal (c : FaultCode) (ch : FaultChange) (s : State) :
    OnlyFaults [c, .slipF, .slipR] s (signal c ch s) := fun d n => by
  simp only [List.mem_cons, List.not_mem_nil, or_false, not_or] at n
  rw [faultRecord_signal n.2.1 n.2.2, if_neg n.1]

/-! ### The notice -/

theorem filter_faultCodes (c : FaultCode) (b : Bool) :
    (faultCodes.filter fun d => decide (d = c) && b) = if b then [c] else [] := by
  cases b
  · simp
  · cases c <;> decide

/-- Where only one fault's record changes, a notice is due for that fault or for none (R146). -/
theorem noticesDue_of_onlyFaults {c : FaultCode} {s t : State} (h : OnlyFaults [c] s t) :
    noticesDue s t =
      if !(faultRecord c s).latched && (faultRecord c t).latched && !(faultRecord c t).masked
          && decide (t.hp.params.noticesEnable = 1) then [c] else [] := by
  rw [← filter_faultCodes]
  unfold noticesDue
  congr 1
  funext d
  by_cases e : d = c
  · subst e; simp
  · rw [h d (by simpa using e)]; simp [e]

theorem noticesDue_self (s : State) : noticesDue s s = [] := by
  simp [noticesDue]

theorem admitsUnsolicited_iff (s : State) : admitsUnsolicited s = true ↔ PortFree s := by
  simp [admitsUnsolicited, PortFree, and_assoc]

theorem PortFree.of_only {ps : List Part} {s t : State} (h : OnlyChanges ps s t) (n : Part.tx ∉ ps) (m : Part.cause ∉ ps) :
    PortFree t ↔ PortFree s := by
  simp [PortFree, h.txQueue_eq n, h.sending_eq n, h.resetTaken_eq m]

/-- What FU does outward after a take: where the fault has become latched, its notice is offered (R143, R146). -/
theorem actOutward_eq (c : FaultCode) (old : FaultRecord) (s : State) :
    actOutward c old s =
      if !old.latched && (faultRecord c s).latched && !(faultRecord c s).masked
          && decide (s.hp.params.noticesEnable = 1) then
        offerNotice (u8 c.code ++ u8 (flag c.forcing) ++ u8 (faultRecord c s).count) (updateAttn s)
      else updateAttn s := by
  have h : faultRecord c (updateAttn s) = faultRecord c s := rfl
  have p : (updateAttn s).hp = s.hp := rfl
  unfold actOutward considerNotice
  simp only [h, p]
  cases old.latched <;> cases (faultRecord c s).latched <;> simp

/-- One take of a fault and what FU then does outward: the notice that is due goes out or is skipped (R143, R146, R161). -/
theorem noticesSent_take (c : FaultCode) (ch : FaultChange) (s : State) : NoticesSent [] s (signalReporting c ch s) := by
  have due := noticesDue_of_onlyFaults (onlyFaults_signalReporting c ch s)
  have par : (signalReporting c ch s).hp.params = s.hp.params := (signalReporting_only c ch s).params_eq (by simp)
  have hu : OnlyChanges [.fu] s (updateAttn (takeAtRecord c ch s)) :=
    (takeAtRecord_only c ch s).trans (updateAttn_only _)
  have rec' : faultRecord c (signalReporting c ch s) = faultRecord c (takeAtRecord c ch s) := by
    simp [faultRecord_signalReporting, faultRecord_takeAtRecord]
  have eq : signalReporting c ch s = _ := actOutward_eq c (faultRecord c s) (takeAtRecord c ch s)
  have par' : (takeAtRecord c ch s).hp.params = s.hp.params := rfl
  rw [rec', par] at due
  rw [par'] at eq
  have free : PortFree (updateAttn (takeAtRecord c ch s)) ↔ PortFree s := PortFree.of_only hu (by simp) (by simp)
  have out : outbox (updateAttn (takeAtRecord c ch s)) = outbox s := hu.outbox_eq (by simp)
  by_cases k : (!(faultRecord c s).latched && (faultRecord c (takeAtRecord c ch s)).latched
      && !(faultRecord c (takeAtRecord c ch s)).masked && decide (s.hp.params.noticesEnable = 1)) = true
  · rw [if_pos k] at due eq
    have sk : (updateAttn (takeAtRecord c ch s)).hp.noticeSkips = s.hp.noticeSkips := rfl
    have rs : (updateAttn (takeAtRecord c ch s)).hp.reportSkips = s.hp.reportSkips := rfl
    have notice : noticeOf c (signalReporting c ch s)
        = ⟨0xE1#8, 0, u8 c.code ++ u8 (flag c.forcing) ++ u8 (faultRecord c (takeAtRecord c ch s)).count⟩ := by
      rw [noticeOf, rec']; cases c.forcing <;> rfl
    unfold NoticesSent
    rw [due]
    simp only [List.take_succ_cons, List.take_zero, List.map_cons, List.map_nil, notice]
    by_cases f : PortFree s
    · have a : admitsUnsolicited (updateAttn (takeAtRecord c ch s)) = true := (admitsUnsolicited_iff _).2 (free.2 f)
      rw [offerNotice, if_pos a] at eq
      have e := enqueueFrame_only ⟨0xE1#8, 0, u8 c.code ++ u8 (flag c.forcing)
        ++ u8 (faultRecord c (takeAtRecord c ch s)).count⟩ (updateAttn (takeAtRecord c ch s))
      rw [eq, outbox_enqueueFrame, out, (e .skips (by simp)).1, (e .skips (by simp)).2]
      exact ⟨fun _ => ⟨by simp, by simp, fun _ => sk⟩, fun n => absurd f n, rs⟩
    · have a : admitsUnsolicited (updateAttn (takeAtRecord c ch s)) = false :=
        Bool.eq_false_iff.2 fun h => f (free.1 ((admitsUnsolicited_iff _).1 h))
      rw [offerNotice, if_neg (by simp [a])] at eq
      rw [eq]
      exact ⟨fun n => absurd n f, fun _ => ⟨by simpa [outbox] using out, fun _ => rfl, fun n => by simp at n⟩, rs⟩
  · rw [if_neg k] at due eq
    unfold NoticesSent
    rw [due, eq]
    exact ⟨fun _ => ⟨by simpa using out, fun n => absurd n (by decide), fun _ => rfl⟩,
      fun _ => ⟨by simpa using out, fun n => absurd rfl n, fun _ => rfl⟩, rfl⟩

/-- A reply that follows the notices (R161). -/
theorem NoticesSent.reply {s t : State} (h : NoticesSent [] s t) (f : HostFrame) (r : ResultCode) (p : List Byte) :
    NoticesSent [⟨f.kind + 0x80#8, f.tag, u8 r.code ++ p⟩] s (reply f r p t) := by
  have e := reply_only f r p t
  have d : noticesDue s (Machine.reply f r p t) = noticesDue s t := by
    simp [noticesDue, e.faultRecord_eq (by simp), e.params_eq (by simp)]
  have n (c : FaultCode) : noticeOf c (Machine.reply f r p t) = noticeOf c t := by
    simp [noticeOf, e.faultRecord_eq (by simp)]
  obtain ⟨h1, h2, h3⟩ := h
  unfold NoticesSent
  rw [d, outbox_reply, (e .skips (by simp)).1, (e .skips (by simp)).2]
  simp only [n]
  exact ⟨fun q => ⟨by rw [(h1 q).1]; simp [replyFrame], (h1 q).2⟩,
    fun q => ⟨by rw [(h2 q).1]; simp [replyFrame], (h2 q).2⟩, h3⟩

end Sys2Proof.Machine
end

