-- ==== Sys2Proof/Laws/SplitMath.lean ====
section
/-! SUPPORT. What split, clamp, transfer and slew can give, for a demand of each sign (R9 to R12). -/

namespace Sys2Proof.Machine

theorem sign_cases (x : Int) : (0 < x ∧ x.sign = 1) ∨ (x = 0 ∧ x.sign = 0) ∨ (x < 0 ∧ x.sign = -1) := by
  rcases Int.lt_trichotomy x 0 with h | h | h
  · exact .inr (.inr ⟨h, Int.sign_eq_neg_one_of_neg h⟩)
  · exact .inr (.inl ⟨h, by rw [h]; rfl⟩)
  · exact .inl ⟨h, Int.sign_eq_one_of_pos h⟩

theorem splitParts_sum (d : Int) (share : Nat) : (splitParts d share).front + (splitParts d share).rear = d := by
  simp only [splitParts]; omega

theorem splitParts_of_nonneg {d : Int} {share : Nat} (h : 0 ≤ d) (hs : share ≤ 1000) :
    0 ≤ (splitParts d share).front ∧ 0 ≤ (splitParts d share).rear := by
  have h1 : 0 ≤ d * share := Int.mul_nonneg h (by omega)
  have h2 : d * share ≤ d * 1000 := Int.mul_le_mul_of_nonneg_left (by omega) h
  simp only [splitParts]
  rw [Int.tdiv_eq_ediv_of_nonneg h1]
  omega

theorem splitParts_of_nonpos {d : Int} {share : Nat} (h : d ≤ 0) (hs : share ≤ 1000) :
    (splitParts d share).front ≤ 0 ∧ (splitParts d share).rear ≤ 0 := by
  have := splitParts_of_nonneg (d := -d) (by omega) hs
  simp only [splitParts, Int.neg_mul, Int.neg_tdiv] at this ⊢
  omega

theorem clampTo_of_nonneg {part : Int} (cap : Nat) (h : 0 ≤ part) : clampTo part cap = min part cap := by
  unfold clampTo
  rcases sign_cases part with k | k | k <;> rw [k.2] <;> omega

theorem clampTo_of_nonpos {part : Int} (cap : Nat) (h : part ≤ 0) : clampTo part cap = max part (-cap) := by
  unfold clampTo
  rcases sign_cases part with k | k | k <;> rw [k.2] <;> omega

theorem slewTo_of_nonneg {target : Int} (prev : Int) (step : Nat) (h : 0 ≤ target) :
    0 ≤ slewTo target prev step ∧ slewTo target prev step ≤ target := by
  unfold slewTo
  rcases sign_cases target with k | k | k <;> rw [k.2] <;> (repeat' split) <;> omega

theorem slewTo_of_nonpos {target : Int} (prev : Int) (step : Nat) (h : target ≤ 0) :
    slewTo target prev step ≤ 0 ∧ target ≤ slewTo target prev step := by
  unfold slewTo
  rcases sign_cases target with k | k | k <;> rw [k.2] <;> (repeat' split) <;> omega

/-- The targets of a demand of 0 or more are within the caps, and their sum within the demand. -/
theorem transferParts_of_nonneg {d : Int} {parts clamped : ByAxle Int} {caps : ByAxle Nat} (transfer : Nat) (h : 0 ≤ d)
    (hf : 0 ≤ parts.front) (hr : 0 ≤ parts.rear) (sum : parts.front + parts.rear = d)
    (cf : clamped.front = min parts.front caps.front) (cr : clamped.rear = min parts.rear caps.rear) :
    0 ≤ (transferParts d parts clamped caps transfer).front ∧ 0 ≤ (transferParts d parts clamped caps transfer).rear
      ∧ (transferParts d parts clamped caps transfer).front ≤ caps.front
      ∧ (transferParts d parts clamped caps transfer).rear ≤ caps.rear
      ∧ (transferParts d parts clamped caps transfer).front + (transferParts d parts clamped caps transfer).rear ≤ d := by
  simp only [transferParts]
  rcases sign_cases d with k | k | k <;> rw [k.2] <;> (repeat' split) <;> (try dsimp only) <;> omega

/-- The targets of a demand below 0 are within the caps, and their sum within the demand. -/
theorem transferParts_of_neg {d : Int} {parts clamped : ByAxle Int} {caps : ByAxle Nat} (transfer : Nat) (h : d < 0)
    (hf : parts.front ≤ 0) (hr : parts.rear ≤ 0) (sum : parts.front + parts.rear = d)
    (cf : clamped.front = max parts.front (-caps.front)) (cr : clamped.rear = max parts.rear (-caps.rear)) :
    (transferParts d parts clamped caps transfer).front ≤ 0 ∧ (transferParts d parts clamped caps transfer).rear ≤ 0
      ∧ -caps.front ≤ (transferParts d parts clamped caps transfer).front
      ∧ -caps.rear ≤ (transferParts d parts clamped caps transfer).rear
      ∧ d ≤ (transferParts d parts clamped caps transfer).front + (transferParts d parts clamped caps transfer).rear := by
  simp only [transferParts]
  rcases sign_cases d with k | k | k <;> rw [k.2] <;> (repeat' split) <;> (try dsimp only) <;> omega

end Sys2Proof.Machine
end

