-- ==== Sys2Proof/WellFormed.lean ====
section
/-! DEFINITION. Which commands are well formed: their operands lie in the ranges the spec gives. The meanings are total and
do not need it; it says which commands an environment of the block can send. -/

namespace Sys2Proof

/-- A command frame is 160 bits (R101), a gap cuts after 10 µs (R112), a low line of 90 µs is an event of its own (R116). -/
def LineMeasures.wellFormed (m : LineMeasures) : Bool :=
  decide (m.txBits ≤ 160) && decide (m.rxGapUs ≤ 10) && decide (m.lowLineUs < 90)

/-- The longest period is 2000 µs (R2), the longest host frame 860 bits (R154), the host gap 200 µs (R155). -/
def Measures.wellFormed (m : Measures) : Bool :=
  decide (m.periodUs ≤ 2000) && decide (m.hostTxBits ≤ 860) && decide (m.hostGapUs ≤ 200)
    && m.front.wellFormed && m.rear.wellFormed

/-- The bytes of a received frame are at least one; a bad one has a byte or a framing error. -/
def OwnerEvent.wellFormed : OwnerEvent → Bool
  | .statusFrame _ bytes => !bytes.isEmpty
  | .badFrame _ bytes framingError => !bytes.isEmpty || framingError
  | .period _ _ | .armWindow | .linkTimer _ | .gapCut _ | .lineLow _ | .lineHigh _ | .windowEnd _ => true

/-- The check of a command. A received frame has at least one byte; a bad one has a byte or a framing error. -/
def Instr.wellFormed : Instr → Bool
  | .hostFrameReceived bytes => !bytes.isEmpty
  | .statusFrameAccepted _ bytes _ => !bytes.isEmpty
  | .statusFrameBad _ bytes framingError => !bytes.isEmpty || framingError
  | .status during => during.all fun e => e.2.wellFormed
  | .refclkStops held => held.wellFormed
  | .powerUp | .pinReset | .resetnRelease | .softwareReset | .hostGapTimeout | .hostFrameSent => true
  | .setup | .reset | .paramSet | .paramGet | .sync | .kindUnknown | .demand => true
  | .capPost | .capWithdraw | .capWithdrawSource | .capList => true
  | .profileWrite | .profileCheck | .profileRead | .profileSelect | .linkQuery | .linkPost => true
  | .arm | .disarm | .torqueOff | .clearTrip | .faultRead | .faultMask | .faultTest => true
  | .periodExpiry _ _ | .hostEntryExpiry _ _ _ | .armWindowExpiry | .linkTimerExpiry _ _ => true
  | .commandFrameComplete _ _ | .breakEnd _ | .receiveGapCut _ | .lineLow90us _ _ | .receiveLineHigh _ => true
  | .clockCheckWindowEnd _ _ | .refclkReturns => true

end Sys2Proof
end

