-- ==== Sys2Proof/Tests/Slice0.lean ====
section
/-! SUPPORT. The model's own tests: ill-formed commands, worked figures of the spec, single steps on small states, and one
witness for the hypotheses of each statement, clause by clause. -/

namespace Sys2Proof.Tests

open Sys2Proof.Machine

/-! ### Small states -/

/-- Parameters within range. -/
def params : Params := ⟨500, 5, 20, 1, 2, 50, 1, 2⟩

/-- READY with both links in a state and no cap entry. -/
def ready (st : LinkState) : State :=
  { State.reset with
    se := { SplitEngine.reset with timerRunning := true }
    link := ⟨{ AxleLink.reset with state := st, timer := some 5 }, { AxleLink.reset with state := st, timer := some 5 }⟩
    hp := { HostPort.reset .power with part := .ready, params := params } }

/-- The state with Output Control in a state, and the enable lines as R128 says. -/
def inOc (o : OcState) (s : State) : State :=
  s.setOc { s.oc with state := o, enF := decide (o = .armed), enR := decide (o = .armed),
                      armWindow := if o = .arming then some 50 else none }

/-- The state with this many milliseconds left on both link timers. -/
def timersAt (n : Nat) (s : State) : State :=
  (s.setLink .front { s.link.front with timer := some n }).setLink .rear { s.link.rear with timer := some n }

/-- The state with a request at the head of the request queue. -/
def asked (k : RequestKind) (payload : List Byte) (s : State) : State :=
  s.setHp { s.hp with requestQueue := [⟨k.code, 7#8, payload⟩] }

/-- The state with the active slot 1, holding a profile. -/
def withProfile (p : Profile) (s : State) : State :=
  s.setPt { s.pt with slots := s.pt.slots.set 1 ⟨some p, 1⟩, active := 1 }

/-- What a next state holds of a property; false where there is none. -/
def after (a : Host.Outcome State Fault Refusal) (holds : State → Bool) : Bool :=
  match a with
  | .next t => holds t
  | _ => false

/-- The payload of the last frame on its way out. -/
def lastReply (s : State) : List Byte := ((outbox s).getLast?.map HostFrame.payload).getD []

/-- A SETUP payload of the parameters above. -/
def setupBytes : List Byte := [500, 5, 20, 1, 2, 50, 1, 2].flatMap fun n => u16 n

/-- A status frame that answers nothing. -/
def statusFrame (speed : Int) : StatusFrame := ⟨0#8, 0#8, 1500, 4200, 4200, speed, 0#8, 0#8, 0⟩

/-! ### Ill-formed commands -/

theorem test_emptyHostFrameIllFormed : (Instr.hostFrameReceived []).wellFormed = false := by decide

theorem test_emptyStatusFrameIllFormed : (Instr.statusFrameAccepted .front []).wellFormed = false := by decide

theorem test_emptyFrameBetweenLooksIllFormed :
    (Instr.status [([.periodNumber], .statusFrame .front [])]).wellFormed = false
      ∧ (Instr.status [([], .badFrame .rear [] false)]).wellFormed = false
      ∧ (Instr.status [([], .badFrame .rear [] true), ([.ocState], .period .report)]).wellFormed = true := by decide

theorem test_badFrameNeedsCause :
    (Instr.statusFrameBad .rear [] false).wellFormed = false ∧ (Instr.statusFrameBad .rear [] true).wellFormed = true := by
  decide

theorem test_measuresOutOfRange :
    (Instr.refclkStops ⟨2001, 0, 0, ⟨0, 0, 0⟩, ⟨0, 0, 0⟩⟩).wellFormed = false
      ∧ (Instr.refclkStops ⟨0, 861, 0, ⟨0, 0, 0⟩, ⟨0, 0, 0⟩⟩).wellFormed = false
      ∧ (Instr.refclkStops ⟨0, 0, 201, ⟨0, 0, 0⟩, ⟨0, 0, 0⟩⟩).wellFormed = false
      ∧ (Instr.refclkStops ⟨0, 0, 0, ⟨161, 0, 0⟩, ⟨0, 0, 0⟩⟩).wellFormed = false
      ∧ (Instr.refclkStops ⟨0, 0, 0, ⟨0, 0, 0⟩, ⟨0, 11, 0⟩⟩).wellFormed = false
      ∧ (Instr.refclkStops ⟨0, 0, 0, ⟨0, 0, 0⟩, ⟨0, 0, 90⟩⟩).wellFormed = false
      ∧ (Instr.refclkStops ⟨2000, 860, 200, ⟨160, 10, 89⟩, ⟨160, 10, 89⟩⟩).wellFormed = true := by
  decide

/-! ### Figures of the spec -/

/-- The check value of the CRC over "123456789" (R174). -/
theorem test_crcCheckValue :
    crc16 [0x31#8, 0x32#8, 0x33#8, 0x34#8, 0x35#8, 0x36#8, 0x37#8, 0x38#8, 0x39#8] = 0x29B1#16 := by
  decide +kernel

/-- Sequence 10.1, periods A and B: clamp, transfer, slew and shortfall. -/
theorem test_looseGradePeriods :
    slewParts (transferParts 3000 ⟨1500, 1500⟩ (clampParts ⟨1500, 1500⟩ ⟨1100, 4000⟩) ⟨1100, 4000⟩ 1) 1500 1500 250
        = ⟨1100, 1750⟩
      ∧ slewParts (transferParts 3000 ⟨1500, 1500⟩ (clampParts ⟨1500, 1500⟩ ⟨700, 4000⟩) ⟨700, 4000⟩ 1) 1100 1750 250
        = ⟨700, 2000⟩
      ∧ shortfallOf 3000 ⟨1100, 1750⟩ = 150 ∧ shortfallOf 3000 ⟨700, 2000⟩ = 300 := by
  decide

/-- Sequence 10.1: the slips of its frames, and the bands they fall in. -/
theorem test_looseGradeSlips :
    slipOf 620 500 = 240 ∧ slipOf 20 (-60) = 800 ∧ bandOf slot0Profile 240 = .excess
      ∧ bandOf slot0Profile 150 = .excess ∧ bandOf slot0Profile 120 = .hold ∧ bandOf slot0Profile 80 = .hold
      ∧ bandOf slot0Profile 60 = .release := by
  decide

/-- Every division truncates toward zero. -/
theorem test_splitTruncates : splitParts (-1001) 500 = ⟨-500, -501⟩ ∧ splitParts 1001 500 = ⟨500, 501⟩ := by decide

/-- Sequence 10.3: two steps of a blend from 500 and 500, and the first of the blend that follows it. -/
theorem test_reselectShares :
    between 500 300 1 5 = 460 ∧ between 500 400 1 5 = 480 ∧ between 500 300 2 5 = 420 ∧ between 500 400 2 5 = 460
      ∧ between 420 500 1 8 = 430 ∧ between 460 500 1 8 = 465 ∧ splitParts 6000 460 = ⟨2760, 3240⟩ := by
  decide

/-- Sequence 10.5: the stale limit; R28: the wrap of accepted numbers. -/
theorem test_staleLimitAndWrap :
    staleLimit 20 1000 = 20 ∧ staleLimit 15 2000 = 8 ∧ nextAccepted 65535 = 1
      ∧ laterThan 58 57 = true ∧ laterThan 57 57 = false ∧ laterThan 1 65535 = true ∧ laterThan 32767 65535 = true
      ∧ laterThan 32768 65535 = false := by
  decide

/-! ### Single steps -/

theorem test_setupEntersReady :
    after (exec .setup (asked .setup setupBytes State.reset)) (fun t =>
      decide (t.hp.part = .ready) && decide (t.hp.params = params) && decide (t.link.rear.state = .starting)
        && decide (lastReply t = [0#8, 0#8]) && !t.fu.attn && decide (t.ct.slots.get .link .front .regen = some ⟨0, 0⟩))
      = true := by
  decide

theorem test_setupNamesFirstBadParameter :
    after (exec .setup (asked .setup (setupBytes.set 2 1#8) State.reset)) (fun t =>
      decide (t.hp.part = .standby) && decide (lastReply t = [3#8, 2#8])) = true := by
  decide

/-- Sequence 10.5, period 2042: the demand that arms the part, and its first commands. -/
theorem test_demandArms :
    after (exec (.periodExpiry .issue)
        ((inOc .arming (ready .synced)).setDi
          { DemandIntake.reset with pending := some ⟨58, 2000⟩, acceptedCount := 58 })) (fun t =>
      decide (t.oc.state = .armed) && t.oc.enF && decide (t.se.prevFront = 250) && decide (t.se.prevRear = 250)
        && decide ((t.link.front.inFlight.map StartedFrame.enable) = some true)) = true := by
  decide

theorem test_armReply :
    after (exec .arm (asked .arm [] (ready .synced))) (fun t =>
      decide (lastReply t = [0#8, 0#8]) && decide (t.oc.armWindow = some 50)) = true
      ∧ after (exec .arm (asked .arm [] (ready .hunt))) (fun t => decide (lastReply t = [2#8, 3#8])) = true := by
  decide

theorem test_torqueOffBreaks :
    after (exec .torqueOff (asked .torqueOff [] (inOc .armed (ready .synced)))) (fun t =>
      decide (t.oc.state = .tripped) && !t.oc.enF && t.link.front.breakSending && t.link.rear.breakSending
        && decide (lastReply t = [0#8, 0xFF#8, 0#8, 0#8, 0#8, 0#8])) = true := by
  decide

theorem test_thirdWindowTrips :
    after (exec (.clockCheckWindowEnd 20401) { ready .synced with tb := ⟨2, 0, false, true⟩ }) (fun t =>
      t.tb.timebaseLive && decide (t.oc.state = .tripped)
        && decide (t.oc.tripRecord = some ⟨.fault .timebase, 0⟩) && t.fu.attn) = true := by
  decide

theorem test_hostCapPost :
    after (exec .capPost (asked .capPost [4#8, 2#8, 0#8, 0xB8#8, 0x0B#8, 0#8, 0#8] (ready .synced))) (fun t =>
      decide (t.ct.pool = [⟨.host0, .front, .drive, 3000, 0, none⟩, ⟨.host0, .rear, .drive, 3000, 0, none⟩])
        && decide (lastReply t = [0#8, 2#8])) = true := by
  decide

theorem test_badHostFramesSignal :
    after (exec (.hostFrameReceived [0xC5#8, 1#8]) ((ready .synced).setHp { (ready .synced).hp with badFrames := 1 }))
      (fun t => decide (t.hp.badFrames = 2) && t.hp.hostLinkLive && (faultRecord .hostLink t).latched) = true := by
  decide

/-- R169: a period that falls between two looks is seen in the demand age and not in the period number. -/
theorem test_statusAcrossPeriod :
    after (exec (.status [([.periodNumber], .period .report)])
        ((asked .status [] (ready .synced)).setDi { DemandIntake.reset with current := some ⟨1, 0, 3⟩ }))
      (fun t => decide (t.se.periodNumber = 1) && decide (u32At (lastReply t) 20 = 0)
        && decide (u16At (lastReply t) 16 = 4)) = true := by decide +kernel

/-- R84, R94: a period operation between two claims of a frame takes the caps before the rear axle's withdrawal, or after it. -/
theorem test_slipOrderBetweenClaims :
    ∀ o : SlipOrder, o = .rearAfterTake ∨ o = .frontAfterTake →
      after (exec (.statusFrameAccepted .front (statusFrame 0).bytes [(.handOver, .period .issue o)])
          (setSlot .slip .rear .drive (some ⟨1100, 0⟩)
            (((ready .synced).setDi { DemandIntake.reset with pending := some ⟨58, -1⟩ }).setSm .rear
              ⟨.slip, 1, some .drive, 0, some 1100, true⟩)))
        (fun t => decide ((t.link.rear.inFlight.map StartedFrame.driveLimit)
          = some (if o = .rearAfterTake then 1100 else 4000))) = true := by
  intro o h
  rcases h with h | h <;> subst h <;> decide +kernel

/-- R101, R111: a frame that a software reset leaves on a line holds its bit over a stop of REFCLK, before the reset and after
it. -/
theorem test_tailHoldsBits :
    let s := ((ready .synced).setHp { (ready .synced).hp with resetTaken := true }).setLink .rear
      { AxleLink.reset with state := .synced, inFlight := some ⟨1#8, false, 0, 0, 0, none, none, 0⟩, txBits := 42 }
    let t := softwareReset s
    (t.link.rear.tail = .frame ⟨1#8, false, 0, 0, 0, none, none, 0⟩ 42)
      ∧ (clockStops ⟨0, 0, 0, ⟨0, 0, 0⟩, ⟨57, 0, 0⟩⟩ t).link.rear.tail = .frame ⟨1#8, false, 0, 0, 0, none, none, 0⟩ 57 := by
  decide

theorem test_linkTimerExpiryBlocks :
    after (exec (.linkTimerExpiry .rear) (timersAt 1 (ready .synced))) (fun t =>
      decide (t.link.rear.state = .lost) && decide (t.ct.slots.get .link .rear .drive = some ⟨0, 0⟩)
        && t.out.rearOut && !t.out.noAxleLive && (faultRecord .linkRLost t).live) = true := by
  decide

/-! ### Witnesses: for each statement with hypotheses, a state and operands that meet them together, clause by clause -/

/-- A frame as HP takes it from the states below. -/
def frame (k : RequestKind) (payload : List Byte) : HostFrame := ⟨k.code, 7#8, payload⟩

/-- The state with a host pool. -/
def withPool (pool : List HostEntry) (s : State) : State := s.setCt { s.ct with pool := pool }

theorem witness_StepRunsFrontCommand :
    ({ State.reset with pending := [.powerUp, .status] } : State).pending = .powerUp :: [.status] := by decide

theorem witness_EmptyQueueIsOneMillisecond :
    (State.reset.pending = [] ∧ ¬Clocked { State.reset with resetnLow := true }
        ∧ ¬Clocked { State.reset with tb := { Timebase.reset with refclk := false } })
      ∧ (∃ s, s = inOc .arming (ready .synced) ∧ s.pending = [] ∧ Clocked s ∧ s.oc.armWindow ≠ some 0
        ∧ s.oc.armWindow ≠ some 1 ∧ ∀ x, (s.link.get x).timer ≠ some 0 ∧ (s.link.get x).timer ≠ some 1)
      ∧ (∃ s, s = (ready .synced).setOc { OutputControl.reset with state := .arming, armWindow := some 1 }
        ∧ s.pending = [] ∧ Clocked s ∧ s.oc.state = .arming ∧ s.oc.armWindow = some 1
        ∧ ∀ x, (s.link.get x).timer ≠ some 0 ∧ (s.link.get x).timer ≠ some 1)
      ∧ ∀ st ∈ [LinkState.synced, .hunt, .starting, .lost], ∃ s, s = (ready st).setLink .rear
            { AxleLink.reset with state := st, timer := some 1 }
        ∧ s.pending = [] ∧ Axle.front ≠ .rear ∧ Clocked s ∧ (s.link.get .rear).state = st
        ∧ (s.link.get .rear).timer = some 1 ∧ (s.link.get .front).timer ≠ some 0 ∧ (s.link.get .front).timer ≠ some 1
        ∧ s.oc.armWindow ≠ some 0 ∧ s.oc.armWindow ≠ some 1 ∧ s.out.frontOut = false ∧ s.out.noAxleLive = false := by
  unfold Clocked
  refine ⟨by decide, ⟨_, rfl, by decide, by decide, by decide, by decide, fun x => ?_⟩,
    ⟨_, rfl, by decide, by decide, by decide, by decide, fun x => ?_⟩, fun st h => ⟨_, rfl, ?_⟩⟩
  · cases x <;> decide
  · cases x <;> decide
  · simp only [List.mem_cons, List.not_mem_nil, or_false] at h
    rcases h with h | h | h | h <;> subst h <;> decide

theorem witness_ResetnReleaseAndHold :
    ({ State.reset with resetnLow := true } : State).resetnLow = true
      ∧ Instr.status ∉ [Instr.powerUp, .pinReset, .resetnRelease, .refclkReturns]
      ∧ ∀ m, Instr.status ≠ .refclkStops m := by
  refine ⟨by decide, by decide, fun m h => by cases h⟩

/-- The front line sends a break and the rear one a frame; then neither. -/
theorem witness_ResetRequestThenSoftwareReset :
    Handed .reset (frame .reset []) (asked .reset [] State.reset)
      ∧ ((ready .synced).setHp { (ready .synced).hp with resetTaken := true }).hp.resetTaken = true
      ∧ ∃ s, s = ((((ready .synced).setHp { (ready .synced).hp with resetTaken := true }).setLink .front
          { AxleLink.reset with state := .synced, breakSending := true }).setLink .rear
          { AxleLink.reset with state := .synced, inFlight := some ⟨1#8, false, 0, 0, 0, none, none, 0⟩, txBits := 42 })
        ∧ s.resetnLow = false ∧ s.hp.resetTaken = true ∧ s.hp.txQueue = [] ∧ (s.hp.sending = none ∨ s.tb.refclk = true)
        ∧ (s.link.get .front).inFlight = none ∧ (s.link.get .front).breakSending = true
        ∧ (s.link.get .rear).inFlight = some ⟨1#8, false, 0, 0, 0, none, none, 0⟩
        ∧ (State.reset.link.get .front).inFlight = none ∧ (State.reset.link.get .front).breakSending = false := by
  unfold Handed
  refine ⟨by decide, by decide, ⟨_, rfl, by decide⟩⟩

/-- The longest payload, and the queue with a place free and full. -/
theorem witness_GoodHostFrameIsQueued :
    ∃ s, s = ready .synced ∧ Clocked s ∧ s.hp.framer = none ∧ (frame .status (List.replicate 80 0)).payload.length ≤ 80
      ∧ s.hp.requestQueue.length < 4
      ∧ ¬(s.setHp { s.hp with requestQueue := List.replicate 4 (frame .status []) }).hp.requestQueue.length < 4 := by
  refine ⟨_, rfl, by unfold Clocked; decide, by decide⟩

theorem witness_BadHostFrameIsCounted :
    (∃ s, s = ready .synced ∧ Clocked s ∧ s.hp.framer = none ∧ (frame .status []).payload.length ≤ 80
        ∧ 0#16 ≠ crc16 (frame .status []).covered ∧ ((1#8).toNat < 2 ∧ 82 < (83#8).toNat))
      ∧ (∃ s, s = (ready .synced).setHp { (ready .synced).hp with framer := some [] }
        ∧ Clocked s ∧ s.hp.framer.isSome = true)
      ∧ State.reset.hp.framer = none ∧ (0xC4#8 : Byte) ≠ 0xC5#8 := by
  unfold Clocked
  refine ⟨⟨_, rfl, by decide +kernel⟩, ⟨_, rfl, by decide⟩, by decide⟩

theorem witness_HostFrameSentStartsNext :
    ∃ s, s = State.reset.setHp { State.reset.hp with sending := some ⟨0x83#8, 1#8, []⟩ }
      ∧ Clocked s ∧ s.hp.sending = some ⟨0x83#8, 1#8, []⟩ := by
  unfold Clocked
  exact ⟨_, rfl, by decide⟩

theorem witness_RefusedByStateTable :
    (∃ s, s = asked .arm [] State.reset ∧ AtHead (frame .arm []) s ∧ (frame .arm []).kind = RequestKind.arm.code
        ∧ RequestKind.arm.lengthOk (frame .arm []).payload.length = true ∧ s.hp.part = .standby
        ∧ RequestKind.arm ∉ [RequestKind.setup, .reset, .status, .paramGet, .faultRead])
      ∧ ∃ s, s = asked .setup setupBytes (ready .synced) ∧ AtHead (frame .setup setupBytes) s
        ∧ (frame .setup setupBytes).kind = RequestKind.setup.code
        ∧ RequestKind.setup.lengthOk (frame .setup setupBytes).payload.length = true ∧ s.hp.part = .ready := by
  unfold AtHead
  exact ⟨⟨_, rfl, by decide⟩, ⟨_, rfl, by decide⟩⟩

/-- The highest of the kinds none has; a length one short; a PROFILE WRITE of 4 bytes; another kind at the head, and a port
with five places taken and one kept. -/
theorem witness_KindAndLengthRefused :
    (AtHead ⟨0xFF#8, 7#8, []⟩ (State.reset.setHp { State.reset.hp with requestQueue := [⟨0xFF#8, 7#8, []⟩] })
        ∧ ∀ k : RequestKind, (0xFF#8 : Byte) ≠ k.code)
      ∧ (AtHead (frame .demand (List.replicate 7 0)) (asked .demand (List.replicate 7 0) (ready .synced))
        ∧ (frame .demand (List.replicate 7 0)).kind = RequestKind.demand.code
        ∧ (frame .demand (List.replicate 7 0)).payload.length ≠ RequestKind.demand.payloadBytes)
      ∧ (AtHead (frame .profileWrite (List.replicate 4 0)) (asked .profileWrite (List.replicate 4 0) State.reset)
        ∧ (frame .profileWrite (List.replicate 4 0)).kind = RequestKind.profileWrite.code
        ∧ (frame .profileWrite (List.replicate 4 0)).payload.length < 5)
      ∧ (∀ f, (asked .status [] State.reset).hp.requestQueue.head? = some f → f.kind ≠ RequestKind.arm.code)
      ∧ ∃ s, s = (State.reset.setHp { State.reset.hp with
            txQueue := List.replicate 5 (frame .status []), pendingSync := some ⟨0#8, 1⟩ })
        ∧ 6 ≤ s.hp.txQueue.length + (if s.hp.pendingSync.isSome then 1 else 0) := by
  unfold AtHead
  refine ⟨⟨by decide, fun k => by cases k <;> decide⟩, ⟨by decide, by decide⟩, ⟨by decide, by decide⟩, ?_,
    ⟨_, rfl, by decide⟩⟩
  intro f h
  have : f = frame .status [] := by injection h with h; exact h.symm
  subst this; decide

/-- Parameter 2 is the first bad one; all in range with no FORCING condition; all in range with NO_AXLE and TIMEBASE
present. -/
theorem witness_SetupEntersReady :
    (∃ p, p = readSetup (frame .setup (setupBytes.set 2 1#8)).payload
        ∧ Handed .setup (frame .setup (setupBytes.set 2 1#8)) (asked .setup (setupBytes.set 2 1#8) State.reset)
        ∧ paramInRange 2 ((p.value 2).getD 0) = false
        ∧ ∀ m, 1 ≤ m → m < 2 → paramInRange m ((p.value m).getD 0) = true)
      ∧ (∃ p s, p = readSetup (frame .setup setupBytes).payload ∧ s = asked .setup setupBytes State.reset
        ∧ Handed .setup (frame .setup setupBytes) s
        ∧ (∀ n, 1 ≤ n → n ≤ 8 → paramInRange n ((p.value n).getD 0) = true)
        ∧ ∀ c : FaultCode, c.forcing = true → (faultRecord c s).present = false)
      ∧ ∃ s, s = setFaultRecord .timebase { FaultRecord.reset false with live := true }
            (setFaultRecord .noAxle { FaultRecord.reset false with test := true } (asked .setup setupBytes State.reset))
        ∧ Handed .setup (frame .setup setupBytes) s ∧ FaultCode.noAxle.forcing = true
        ∧ (faultRecord .noAxle s).present = true
        ∧ ∀ d : FaultCode, d.forcing = true → d.code < FaultCode.noAxle.code → (faultRecord d s).present = false := by
  unfold Handed
  refine ⟨⟨_, rfl, by decide, by decide, fun m h k => ?_⟩, ⟨_, _, rfl, rfl, by decide, fun n h k => ?_, fun c => by cases c <;> decide⟩,
    ⟨_, rfl, by decide, by decide, by decide, fun d => by cases d <;> decide⟩⟩
  · have : m = 1 := by omega
    subst this; decide
  · have : n = 1 ∨ n = 2 ∨ n = 3 ∨ n = 4 ∨ n = 5 ∨ n = 6 ∨ n = 7 ∨ n = 8 := by omega
    rcases this with h | h | h | h | h | h | h | h <;> subst h <;> decide

/-- STATUS with no trip record and no current demand, and with both; with a period due while HP gathers the items, one of them
looked at before it. -/
theorem witness_StatusReply :
    (∃ s, s = asked .status [] State.reset ∧ Handed .status (frame .status []) s ∧ s.oc.tripRecord = none
        ∧ s.di.current = none)
      ∧ ∃ s, s = asked .status [] (((ready .synced).setOc { OutputControl.reset with tripRecord := some ⟨.host, 9⟩ }).setDi
          { DemandIntake.reset with current := some ⟨1, 0, 65535⟩ })
        ∧ Handed .status (frame .status []) s ∧ s.oc.tripRecord = some ⟨.host, 9⟩
        ∧ s.di.current = some ⟨1, 0, 65535⟩
        ∧ s.setHp { s.hp with requestQueue := s.hp.requestQueue.tail }
            = ((ready .synced).setOc { OutputControl.reset with tripRecord := some ⟨.host, 9⟩ }).setDi
                { DemandIntake.reset with current := some ⟨1, 0, 65535⟩ }
        ∧ PeriodDue s ∧ StatusItem.periodNumber ∈ [StatusItem.periodNumber] ∧ StatusItem.demandAge ∉ [StatusItem.periodNumber] := by
  unfold Handed PeriodDue Clocked
  exact ⟨⟨_, rfl, by decide⟩, ⟨_, rfl, by decide⟩⟩

/-- Each of the ten numbers, and the numbers beside them. -/
theorem witness_ParamGetReply :
    (∀ b ∈ [0x01#8, 0x02#8, 0x03#8, 0x04#8, 0x05#8, 0x06#8, 0x07#8, 0x08#8, 0x10#8, 0x11#8, 0x00#8, 0x09#8, 0x12#8],
        Handed .paramGet (frame .paramGet [b]) (asked .paramGet [b] (ready .synced))
          ∧ Handed .paramGet (frame .paramGet [b]) (asked .paramGet [b] State.reset)
          ∧ u8At (frame .paramGet [b]).payload 0 = b.toNat)
      ∧ (∀ n ∈ [0x00, 0x09, 0x12], n ∉ [0x01, 0x02, 0x03, 0x04, 0x05, 0x06, 0x07, 0x08, 0x10, 0x11])
      ∧ StandbyHoldsResetValues (asked .paramGet [0x08#8] State.reset)
      ∧ (asked .paramGet [0x08#8] State.reset).hp.part = .standby ∧ 1 ≤ 8 := by
  unfold Handed StandbyHoldsResetValues
  refine ⟨?_, by decide, by decide, by decide, by decide⟩
  intro b h
  simp only [List.mem_cons, List.not_mem_nil, or_false] at h
  rcases h with h | h | h | h | h | h | h | h | h | h | h | h | h <;> subst h <;> decide

/-- Each number with a value at the end of its range, and one past it. -/
theorem witness_ParamSetWrites :
    (∀ p ∈ [[0x09#8, 0#8, 0#8], [0x10#8, 0#8, 0#8], [0x11#8, 0#8, 0#8], [0x01#8, 0#8, 0#8], [0x02#8, 0#8, 0#8],
            [0x08#8, 0#8, 0#8], [0x03#8, 0xD0#8, 7#8], [0x03#8, 0xD1#8, 7#8], [0x04#8, 0xE8#8, 3#8],
            [0x04#8, 0xE9#8, 3#8], [0x05#8, 8#8, 0#8], [0x05#8, 9#8, 0#8], [0x06#8, 10#8, 0#8], [0x06#8, 9#8, 0#8],
            [0x07#8, 1#8, 0#8], [0x07#8, 2#8, 0#8]],
        Handed .paramSet (frame .paramSet p) (asked .paramSet p (ready .synced)))
      ∧ 0x09 ∉ [0x01, 0x02, 0x03, 0x04, 0x05, 0x06, 0x07, 0x08, 0x10, 0x11]
      ∧ (u16At [0x03#8, 0xD0#8, 7#8] 1 = 2000 ∧ u16At [0x03#8, 0xD1#8, 7#8] 1 = 2001
        ∧ u16At [0x04#8, 0xE8#8, 3#8] 1 = 1000 ∧ u16At [0x04#8, 0xE9#8, 3#8] 1 = 1001) := by
  unfold Handed
  decide

theorem witness_SyncBecomesPending :
    (∃ s, s = asked .sync [] (ready .synced) ∧ Handed .sync (frame .sync []) s ∧ s.hp.pendingSync = none)
      ∧ ∃ s, s = asked .sync [] ((ready .synced).setHp { (ready .synced).hp with pendingSync := some ⟨1#8, 1⟩ })
        ∧ Handed .sync (frame .sync []) s ∧ s.hp.pendingSync.isSome = true := by
  unfold Handed
  exact ⟨⟨_, rfl, by decide⟩, ⟨_, rfl, by decide⟩⟩

/-- The payload of a DEMAND of seq 1 with both flags set and speed 0. -/
def demandBytes (torque : Int) (load : Nat) : List Byte := [1#8] ++ i16 torque ++ [3#8, 0#8, 0#8] ++ u16 load

/-- DEMAND: in STANDBY; each torque and load one past its range; a repeated seq; values at the ends accepted, over a pending
record. -/
theorem witness_DemandRefusedOrAccepted :
    (∃ s, s = asked .demand (demandBytes 0 0) State.reset ∧ AtHead (frame .demand (demandBytes 0 0)) s
        ∧ (frame .demand (demandBytes 0 0)).kind = RequestKind.demand.code
        ∧ (frame .demand (demandBytes 0 0)).payload.length = 8 ∧ s.hp.part = .standby)
      ∧ (∀ p ∈ [demandBytes (-16001) 0, demandBytes 16001 0, demandBytes 0 1001],
        Handed .demand (frame .demand p) (asked .demand p (ready .synced))
          ∧ (i16At p 1 < -16000 ∨ 16000 < i16At p 1 ∨ ((u8At p 3).testBit 1 = true ∧ 1000 < u16At p 6)))
      ∧ ∀ p ∈ [demandBytes (-16000) 0, demandBytes 16000 1000], ∀ seq ∈ [0#8, 1#8],
        ∃ s, s = asked .demand p ((ready .synced).setDi { DemandIntake.reset with
              lastSeq := some seq, acceptedCount := 65535, pending := some ⟨65535, 1⟩ })
          ∧ Handed .demand (frame .demand p) s ∧ -16000 ≤ i16At p 1 ∧ i16At p 1 ≤ 16000
          ∧ (u8At p 3).testBit 1 = true ∧ u16At p 6 ≤ 1000 ∧ byteAt p 0 = 1#8 ∧ s.di.lastSeq = some seq := by
  unfold AtHead Handed
  refine ⟨⟨_, rfl, by decide⟩, by decide, ?_⟩
  intro p hp seq hs
  refine ⟨_, rfl, ?_⟩
  simp only [List.mem_cons, List.not_mem_nil, or_false] at hp hs
  rcases hp with h | h <;> rcases hs with k | k <;> subst h <;> subst k <;> decide

theorem witness_AcceptedNumbersAreOrdered : (65535 : Nat) ≤ 65535 ∧ (0 : Nat) ≤ 65535 := by decide

/-- The payload of a CAP POST. -/
def postBytes (src axle dir limit expiry : Nat) : List Byte := u8 src ++ u8 axle ++ u8 dir ++ u16 limit ++ u16 expiry

/-- A pool of `n` entries of one key, as many as the length asks. -/
def poolOf (n : Nat) : List HostEntry := List.replicate n ⟨.host0, .front, .drive, 1, 0, none⟩

/-- CAP POST: each operand one past its range; every operand at its greatest with a protected source; FULL, at 12 entries with
one key absent and at 11 with two; taken at 12 with no key absent and at 10 with two. -/
theorem witness_CapPostTakenOrRefused :
    (∀ p ∈ [postBytes 8 0 0 0 0, postBytes 4 3 0 0 0, postBytes 4 0 2 0 0, postBytes 4 0 0 8001 0, postBytes 4 0 0 0 60001],
        Handed .capPost (frame .capPost p) (asked .capPost p (ready .synced))
          ∧ (7 < u8At p 0 ∨ 2 < u8At p 1 ∨ 1 < u8At p 2 ∨ 8000 < u16At p 3 ∨ 60000 < u16At p 5))
      ∧ (∃ p, p = postBytes 3 2 1 8000 60000 ∧ Handed .capPost (frame .capPost p) (asked .capPost p (ready .synced))
        ∧ u8At p 0 ≤ 3 ∧ u8At p 1 ≤ 2 ∧ u8At p 2 ≤ 1 ∧ u16At p 3 ≤ 8000 ∧ u16At p 5 ≤ 60000)
      ∧ (∀ q ∈ [(12, 1, [Axle.rear], true), (11, 2, [Axle.front, .rear], false), (12, 0, [Axle.front], false),
                (10, 2, [Axle.front, .rear], false)],
        ∃ p s, p = postBytes (if q.2.2.2 then 4 else if q.1 = 12 then 4 else 7)
              (if q.2.2.1 = [Axle.front] then 0 else if q.2.2.1 = [Axle.rear] then 1 else 2) 0 8000 60000
          ∧ s = asked .capPost p (withPool (poolOf q.1) (ready .synced))
          ∧ Handed .capPost (frame .capPost p) s
          ∧ u8At p 0 = hostSourceCode (if q.1 = 12 then .host0 else .host3)
          ∧ (u8At p 1, q.2.2.1) ∈ [(0, [Axle.front]), (1, [Axle.rear]), (2, [Axle.front, .rear])]
          ∧ u8At p 2 = dirCode .drive ∧ u16At p 3 ≤ 8000 ∧ u16At p 5 ≤ 60000
          ∧ q.2.1 = (q.2.2.1.filter (fun x => !(s.ct.pool.any fun e =>
              decide (e.source = (if q.1 = 12 then .host0 else .host3) ∧ e.axle = x ∧ e.dir = .drive)))).length)
      ∧ 12 < 12 + 1 ∧ 12 < 11 + 2 ∧ 12 + 0 ≤ 12 ∧ 10 + 2 ≤ 12 := by
  unfold Handed
  refine ⟨by decide, ⟨_, rfl, by decide⟩, ?_, by decide⟩
  intro q hq
  refine ⟨_, _, rfl, rfl, ?_⟩
  simp only [List.mem_cons, List.not_mem_nil, or_false] at hq
  rcases hq with h | h | h | h <;> subst h <;> decide

/-- CAP WITHDRAW: each operand one past its range; a protected source; an absent entry and a present one. CAP WITHDRAW SOURCE:
source 8, 2, 7, and TRACK with a slot occupied. -/
theorem witness_CapWithdrawals :
    (∀ p ∈ [[8#8, 0#8, 0#8], [4#8, 2#8, 0#8], [4#8, 0#8, 2#8]],
        Handed .capWithdraw (frame .capWithdraw p) (asked .capWithdraw p (ready .synced))
          ∧ (7 < u8At p 0 ∨ 1 < u8At p 1 ∨ 1 < u8At p 2))
      ∧ (Handed .capWithdraw (frame .capWithdraw [3#8, 1#8, 1#8]) (asked .capWithdraw [3#8, 1#8, 1#8] (ready .synced))
        ∧ u8At [3#8, 1#8, 1#8] 0 ≤ 3 ∧ u8At [3#8, 1#8, 1#8] 1 ≤ 1 ∧ u8At [3#8, 1#8, 1#8] 2 ≤ 1)
      ∧ (∃ s, s = asked .capWithdraw [7#8, 1#8, 1#8] (withPool (poolOf 12) (ready .synced))
        ∧ Handed .capWithdraw (frame .capWithdraw [7#8, 1#8, 1#8]) s ∧ u8At [7#8, 1#8, 1#8] 0 = hostSourceCode .host3
        ∧ u8At [7#8, 1#8, 1#8] 1 = axleCode .rear ∧ u8At [7#8, 1#8, 1#8] 2 = dirCode .regen
        ∧ ∀ e ∈ s.ct.pool, ¬(e.source = .host3 ∧ e.axle = .rear ∧ e.dir = .regen))
      ∧ (∃ s, s = asked .capWithdraw [4#8, 0#8, 0#8] (withPool (poolOf 1) (ready .synced))
        ∧ Handed .capWithdraw (frame .capWithdraw [4#8, 0#8, 0#8]) s ∧ u8At [4#8, 0#8, 0#8] 0 = hostSourceCode .host0
        ∧ u8At [4#8, 0#8, 0#8] 1 = axleCode .front ∧ u8At [4#8, 0#8, 0#8] 2 = dirCode .drive
        ∧ ∃ e ∈ s.ct.pool, e.source = .host0 ∧ e.axle = .front ∧ e.dir = .drive)
      ∧ (∀ b ∈ [8#8, 2#8, 7#8], Handed .capWithdrawSource (frame .capWithdrawSource [b])
          (asked .capWithdrawSource [b] (ready .synced)))
      ∧ u8At [7#8] 0 = hostSourceCode .host3
      ∧ ∃ s, s = asked .capWithdrawSource [3#8] (setSlot .track .front .regen (some ⟨0, 0⟩) (ready .synced))
        ∧ Handed .capWithdrawSource (frame .capWithdrawSource [3#8]) s ∧ u8At [3#8] 0 = 3
        ∧ ∃ d, (s.ct.slots.get .track .front d).isSome = true := by
  unfold Handed
  refine ⟨by decide, by decide, ⟨_, rfl, by decide⟩, ⟨_, rfl, by decide, by decide, by decide, by decide, _, List.mem_cons_self, by decide⟩, by decide, by decide,
    ⟨_, rfl, by decide, by decide, .regen, by decide⟩⟩

/-- Start index 0 with entries of both kinds, and 255. `all` and `page` are given by their equations. -/
theorem witness_CapListPages :
    ∃ s, s = setSlot .track .front .regen (some ⟨0, 0⟩) (withPool (poolOf 9) (ready .synced))
      ∧ Handed .capList (frame .capList [0#8]) (asked .capList [0#8] s)
      ∧ Handed .capList (frame .capList [255#8]) (asked .capList [255#8] s)
      ∧ (slotOrder.filter fun k => (s.ct.slots.get k.1 k.2.1 k.2.2).isSome).length + s.ct.pool.length = 10 := by
  unfold Handed
  exact ⟨_, rfl, by decide⟩

/-- A state of READY with slot 1 active, slot 3 VALID and the other slots but 0 EMPTY. -/
def slots : State :=
  let s := withProfile slot0Profile (ready .synced)
  s.setPt { s.pt with slots := s.pt.slots.set 3 ⟨some slot0Profile, 65535⟩ }

/-- The payload of a write of all thirty fields. -/
def fullWrite (slot : Byte) (p : Profile) : List Byte :=
  [slot, 0xFF#8, 0xFF#8, 0xFF#8, 0x3F#8] ++ p.toList.flatMap fun v => u16 v

/-- The checks of a write, at each result: slot 8; slot 0; the active slot; bit 30; bit 31; a length one field short; an EMPTY
slot with field 29 left out; field 9 out of range; and a check that passes. -/
theorem witness_ProfileWriteAndCheckRefusals :
    (∀ k ∈ [RequestKind.profileWrite, .profileCheck], ∀ p ∈ [[8#8, 0#8, 0#8, 0#8, 0#8], [0#8, 0#8, 0#8, 0#8, 0#8],
          [1#8, 0#8, 0#8, 0#8, 0#8], [2#8, 0#8, 0#8, 0#8, 0xC0#8], [2#8, 0#8, 0#8, 0#8, 0x80#8],
          [3#8, 1#8, 0#8, 0#8, 0#8], [2#8, 0xFF#8, 0xFF#8, 0xFF#8, 0x1F#8] ++ List.replicate 58 0,
          fullWrite 2#8 { slot0Profile with slipOff := 150 }, fullWrite 2#8 slot0Profile, [3#8, 0#8, 0#8, 0#8, 0#8]],
        Handed k (frame k p) (asked k p slots))
      ∧ 7 < u8At [8#8, 0#8, 0#8, 0#8, 0#8] 0
      ∧ ((2 : Fin 8) ≠ 0 ∧ (2 : Fin 8) ≠ slots.pt.active ∧ (1 : Fin 8) ≠ 0 ∧ (1 : Fin 8) = slots.pt.active)
      ∧ ((u32At [2#8, 0#8, 0#8, 0#8, 0xC0#8] 1).testBit 30 = true ∧ (u32At [2#8, 0#8, 0#8, 0#8, 0x80#8] 1).testBit 30 = false
        ∧ (u32At [2#8, 0#8, 0#8, 0#8, 0x80#8] 1).testBit 31 = true)
      ∧ (∃ mask, mask = u32At [3#8, 1#8, 0#8, 0#8, 0#8] 1 ∧ mask.testBit 30 = false ∧ mask.testBit 31 = false
        ∧ (5 : Nat) ≠ 5 + 2 * ((List.range 32).filter fun n => mask.testBit n).length)
      ∧ (∃ p mask, p = [2#8, 0xFF#8, 0xFF#8, 0xFF#8, 0x1F#8] ++ List.replicate 58 0 ∧ mask = u32At p 1
        ∧ mask.testBit 30 = false ∧ mask.testBit 31 = false
        ∧ p.length = 5 + 2 * ((List.range 32).filter fun n => mask.testBit n).length
        ∧ (slots.pt.slots.get 2).profile = none ∧ mask.testBit 29 = false ∧ ∀ m, m < 29 → mask.testBit m = true)
      ∧ (∃ p mask bits, p = fullWrite 2#8 { slot0Profile with slipOff := 150 } ∧ mask = u32At p 1 ∧ bits = 30
        ∧ bits = ((List.range 32).filter fun n => mask.testBit n).length
        ∧ mask.testBit 30 = false ∧ mask.testBit 31 = false ∧ p.length = 5 + 2 * bits
        ∧ (∀ m, m < 30 → mask.testBit m = true)
        ∧ (mergedProfile none mask (readValues p bits)).fieldInRange 9 = false
        ∧ ∀ m, m < 9 → (mergedProfile none mask (readValues p bits)).fieldInRange m = true)
      ∧ ∃ p mask bits, p = ([3#8, 0#8, 0#8, 0#8, 0#8] : List Byte) ∧ mask = u32At p 1 ∧ bits = 0
        ∧ bits = ((List.range 32).filter fun n => mask.testBit n).length
        ∧ mask.testBit 30 = false ∧ mask.testBit 31 = false ∧ p.length = 5 + 2 * bits
        ∧ (slots.pt.slots.get 3).profile.isSome = true
        ∧ ∀ m, m < 30 →
          (mergedProfile (slots.pt.slots.get 3).profile mask (readValues p bits)).fieldInRange m = true := by
  unfold Handed
  refine ⟨by decide, by decide, by decide, by decide, ⟨_, rfl, by decide⟩, ⟨_, _, rfl, rfl, by decide⟩,
    ⟨_, _, _, rfl, rfl, rfl, by decide⟩, ⟨_, _, _, rfl, rfl, rfl, by decide⟩⟩

/-- All thirty fields of an EMPTY slot, and none of a VALID one. -/
theorem witness_ProfileWriteTaken :
    (∃ p mask bits, p = fullWrite 2#8 slot0Profile ∧ mask = u32At p 1 ∧ bits = 30
        ∧ bits = ((List.range 32).filter fun n => mask.testBit n).length
        ∧ Handed .profileWrite (frame .profileWrite p) (asked .profileWrite p slots)
        ∧ (2 : Fin 8).val = u8At p 0 ∧ (2 : Fin 8) ≠ 0 ∧ (2 : Fin 8) ≠ (asked .profileWrite p slots).pt.active
        ∧ mask < 2 ^ 30 ∧ p.length = 5 + 2 * bits ∧ mask = 2 ^ 30 - 1
        ∧ ∀ m, m < 30 → (mergedProfile ((asked .profileWrite p slots).pt.slots.get 2).profile mask
            (readValues p bits)).fieldInRange m = true)
      ∧ ∃ p mask bits, p = ([3#8, 0#8, 0#8, 0#8, 0#8] : List Byte) ∧ mask = u32At p 1 ∧ bits = 0
        ∧ bits = ((List.range 32).filter fun n => mask.testBit n).length
        ∧ Handed .profileWrite (frame .profileWrite p) (asked .profileWrite p slots)
        ∧ (3 : Fin 8).val = u8At p 0 ∧ (3 : Fin 8) ≠ 0 ∧ (3 : Fin 8) ≠ (asked .profileWrite p slots).pt.active
        ∧ mask < 2 ^ 30 ∧ p.length = 5 + 2 * bits
        ∧ ((asked .profileWrite p slots).pt.slots.get 3).profile.isSome = true
        ∧ ∀ m, m < 30 → (mergedProfile ((asked .profileWrite p slots).pt.slots.get 3).profile mask
            (readValues p bits)).fieldInRange m = true := by
  unfold Handed
  exact ⟨⟨_, _, _, rfl, rfl, rfl, by decide⟩, ⟨_, _, _, rfl, rfl, rfl, by decide⟩⟩

/-- Slot 8; bit 30; bit 31; an EMPTY slot and a VALID one. -/
theorem witness_ProfileReadReply :
    (∀ p ∈ [[8#8, 0#8, 0#8, 0#8, 0#8], [7#8, 0#8, 0#8, 0#8, 0xC0#8], [7#8, 0#8, 0#8, 0#8, 0x80#8],
            [7#8, 0xFF#8, 0xFF#8, 0xFF#8, 0x3F#8], [3#8, 0xFF#8, 0xFF#8, 0xFF#8, 0x3F#8]],
        Handed .profileRead (frame .profileRead p) (asked .profileRead p slots))
      ∧ 7 < u8At [8#8, 0#8, 0#8, 0#8, 0#8] 0 ∧ (7 : Fin 8).val = u8At [7#8, 0#8, 0#8, 0#8, 0xC0#8] 0
      ∧ (u32At [7#8, 0#8, 0#8, 0#8, 0xC0#8] 1).testBit 30 = true
      ∧ ((u32At [7#8, 0#8, 0#8, 0#8, 0x80#8] 1).testBit 30 = false ∧ (u32At [7#8, 0#8, 0#8, 0#8, 0x80#8] 1).testBit 31 = true)
      ∧ ((u32At [7#8, 0xFF#8, 0xFF#8, 0xFF#8, 0x3F#8] 1).testBit 30 = false
        ∧ (u32At [7#8, 0xFF#8, 0xFF#8, 0xFF#8, 0x3F#8] 1).testBit 31 = false)
      ∧ (slots.pt.slots.get 7).profile = none ∧ (slots.pt.slots.get 3).profile = some slot0Profile := by
  unfold Handed
  decide

/-- Slot 8; an EMPTY slot; the active slot with no blend; another slot; the active slot with a blend. -/
theorem witness_ProfileSelectStartsBlend :
    (∀ b ∈ [8#8, 7#8, 1#8, 3#8], Handed .profileSelect (frame .profileSelect [b]) (asked .profileSelect [b] slots))
      ∧ 7 < u8At [8#8] 0 ∧ (slots.pt.slots.get 7).profile = none
      ∧ ((slots.pt.slots.get 1).profile = some slot0Profile ∧ 1 = slots.pt.active ∧ slots.pt.blendRunning = false)
      ∧ ((slots.pt.slots.get 3).profile = some slot0Profile ∧ 3 ≠ slots.pt.active)
      ∧ ∃ s, s = asked .profileSelect [1#8] (slots.setPt { slots.pt with blendRunning := true, blendLength := 5 })
        ∧ Handed .profileSelect (frame .profileSelect [1#8]) s
        ∧ (s.pt.slots.get 1).profile = some slot0Profile ∧ s.pt.blendRunning = true := by
  unfold Handed
  refine ⟨by decide, by decide, by decide, by decide, by decide, ⟨_, rfl, by decide⟩⟩

/-- A link with nothing to report, and one with a last frame, a last status, a notice and a finished service. -/
theorem witness_LinkQueryReply :
    (Handed .linkQuery (frame .linkQuery [2#8]) (asked .linkQuery [2#8] (ready .synced)) ∧ 1 < u8At [2#8] 0)
      ∧ (∃ s, s = asked .linkQuery [0#8] (ready .synced) ∧ Handed .linkQuery (frame .linkQuery [0#8]) s
        ∧ u8At [0#8] 0 = axleCode .front ∧ s.link.front.lastStarted = none ∧ s.link.front.lastStatus = none
        ∧ s.link.front.notice = none ∧ s.link.front.service.state ≠ .done ∧ s.link.front.service.state ≠ .timedOut)
      ∧ ∃ s, s = asked .linkQuery [1#8] ((ready .synced).setLink .rear
            { AxleLink.reset with
              state := .synced, notice := some (5#8, 65535), lastStatus := some ⟨0#8, -32768, 65535, 0, 32767⟩
              lastStarted := some 9#8, ring := [⟨9#8, 0, false, 4⟩], service := ⟨.done, 1#8, 0, 1⟩ })
        ∧ Handed .linkQuery (frame .linkQuery [1#8]) s ∧ u8At [1#8] 0 = axleCode .rear
        ∧ s.link.rear.lastStarted = some 9#8
        ∧ s.link.rear.ring.find? (fun e => decide (e.seq = 9#8)) = some ⟨9#8, 0, false, 4⟩
        ∧ s.link.rear.lastStatus = some ⟨0#8, -32768, 65535, 0, 32767⟩ ∧ s.link.rear.notice = some (5#8, 65535)
        ∧ s.link.rear.service.state = .done := by
  unfold Handed
  exact ⟨by decide, ⟨_, rfl, by decide⟩, ⟨_, rfl, by decide⟩⟩

theorem witness_LinkPostQueues :
    (∃ s, s = asked .linkPost [0#8, 1#8, 0#8, 0#8] State.reset ∧ AtHead (frame .linkPost [0#8, 1#8, 0#8, 0#8]) s
        ∧ (frame .linkPost [0#8, 1#8, 0#8, 0#8]).kind = RequestKind.linkPost.code
        ∧ (frame .linkPost [0#8, 1#8, 0#8, 0#8]).payload.length = 4 ∧ s.hp.part = .standby)
      ∧ (∀ p ∈ [[2#8, 1#8, 0#8, 0#8], [1#8, 0#8, 0#8, 0#8], [1#8, 255#8, 0xFF#8, 0xFF#8]],
        Handed .linkPost (frame .linkPost p) (asked .linkPost p (ready .synced)))
      ∧ (1 < u8At [2#8, 1#8, 0#8, 0#8] 0 ∧ u8At [1#8, 0#8, 0#8, 0#8] 0 = axleCode .rear
        ∧ byteAt [1#8, 0#8, 0#8, 0#8] 1 = 0 ∧ byteAt [1#8, 255#8, 0xFF#8, 0xFF#8] 1 ≠ 0
        ∧ (ready .synced).link.rear.service.state ≠ .queued ∧ (ready .synced).link.rear.service.state ≠ .sent)
      ∧ ∃ s, s = asked .linkPost [1#8, 255#8, 0xFF#8, 0xFF#8] ((ready .synced).setLink .rear
            { AxleLink.reset with service := ⟨.queued, 1#8, 0, 0⟩ })
        ∧ Handed .linkPost (frame .linkPost [1#8, 255#8, 0xFF#8, 0xFF#8]) s ∧ s.link.rear.service.state = .queued := by
  unfold AtHead Handed
  refine ⟨⟨_, rfl, by decide⟩, by decide, by decide, ⟨_, rfl, by decide⟩⟩

/-- ARM in STANDBY, at each of its conditions 2 to 6, and with none failing. -/
theorem witness_ArmConditions :
    (∃ s, s = asked .arm [] State.reset ∧ AtHead (frame .arm []) s ∧ (frame .arm []).kind = RequestKind.arm.code
        ∧ (frame .arm []).payload.length = 0 ∧ s.hp.part = .standby)
      ∧ (∃ s, s = asked .arm [] (inOc .tripped (ready .synced)) ∧ Handed .arm (frame .arm []) s ∧ s.oc.state ≠ .disarmed)
      ∧ (∃ s, s = asked .arm [] (ready .hunt) ∧ Handed .arm (frame .arm []) s ∧ s.oc.state = .disarmed
        ∧ s.link.front.state ≠ .synced)
      ∧ (∃ s, s = asked .arm [] ((ready .synced).setLink .rear AxleLink.reset) ∧ Handed .arm (frame .arm []) s
        ∧ s.oc.state = .disarmed ∧ s.link.front.state = .synced ∧ s.link.rear.state ≠ .synced)
      ∧ (∃ s, s = asked .arm [] (setFaultRecord .capFull { FaultRecord.reset false with test := true } (ready .synced))
        ∧ Handed .arm (frame .arm []) s ∧ s.oc.state = .disarmed ∧ s.link.front.state = .synced
        ∧ s.link.rear.state = .synced ∧ ∃ c, (faultRecord c s).test = true)
      ∧ (∃ s, s = asked .arm [] (setFaultRecord .noAxle { FaultRecord.reset false with live := true } (ready .synced))
        ∧ Handed .arm (frame .arm []) s ∧ s.oc.state = .disarmed ∧ s.link.front.state = .synced
        ∧ s.link.rear.state = .synced ∧ (∀ c, (faultRecord c s).test = false)
        ∧ ∃ c : FaultCode, c.forcing = true ∧ (faultRecord c s).live = true)
      ∧ ∃ s, s = asked .arm [] (ready .synced) ∧ Handed .arm (frame .arm []) s ∧ s.oc.state = .disarmed
        ∧ s.link.front.state = .synced ∧ s.link.rear.state = .synced ∧ (∀ c, (faultRecord c s).test = false)
        ∧ ∀ c : FaultCode, c.forcing = true → (faultRecord c s).live = false := by
  unfold AtHead Handed
  refine ⟨⟨_, rfl, by decide⟩, ⟨_, rfl, by decide⟩, ⟨_, rfl, by decide⟩, ⟨_, rfl, by decide⟩,
    ⟨_, rfl, by decide, by decide, by decide, by decide, .capFull, by decide⟩,
    ⟨_, rfl, by decide, by decide, by decide, by decide, fun c => by cases c <;> decide, .noAxle, by decide⟩,
    ⟨_, rfl, by decide, by decide, by decide, by decide, fun c => by cases c <;> decide, fun c => by cases c <;> decide⟩⟩

/-- DISARM in each state of Output Control; in ARMED with a slip cap. -/
theorem witness_DisarmStopsTorque :
    (∀ o, Handed .disarm (frame .disarm []) (asked .disarm [] (inOc o (ready .synced)))
        ∧ (asked .disarm [] (inOc o (ready .synced))).oc.state = o)
      ∧ ∃ s, s = asked .disarm [] ((inOc .armed (ready .synced)).setSm .front ⟨.slip, 1, some .drive, 0, some 1100, true⟩)
        ∧ Handed .disarm (frame .disarm []) s ∧ s.oc.state = .armed ∧ (s.sm.get .front).cap.isSome = true
        ∧ (s.sm.get .front).counting = some .drive ∧ (s.sm.get .front).live = true ∧ (s.sm.get .rear).cap = none := by
  unfold Handed
  refine ⟨fun o => ?_, ⟨_, rfl, by decide⟩⟩
  cases o <;> decide

theorem witness_TorqueOffAndClearTrip :
    (∀ o, Handed .torqueOff (frame .torqueOff []) (asked .torqueOff [] (inOc o (ready .synced)))
        ∧ (asked .torqueOff [] (inOc o (ready .synced))).oc.state = o
        ∧ (asked .torqueOff [] (inOc o (ready .synced))).oc.tripRecord = none)
      ∧ (∃ s, s = asked .torqueOff [] ((ready .synced).setOc
            { OutputControl.reset with state := .tripped, tripRecord := some ⟨.host, 4⟩ })
        ∧ Handed .torqueOff (frame .torqueOff []) s ∧ s.oc.state = .tripped ∧ s.oc.tripRecord = some ⟨.host, 4⟩)
      ∧ (∃ s, s = asked .clearTrip [] (ready .synced) ∧ Handed .clearTrip (frame .clearTrip []) s
        ∧ s.oc.state ≠ .tripped)
      ∧ (∃ s, s = setFaultRecord .timebase { FaultRecord.reset false with live := true }
            (asked .clearTrip [] (inOc .tripped (ready .synced)))
        ∧ Handed .clearTrip (frame .clearTrip []) s ∧ s.oc.state = .tripped ∧ FaultCode.timebase.forcing = true
        ∧ (faultRecord .timebase s).present = true
        ∧ ∀ d : FaultCode, d.forcing = true → d.code < FaultCode.timebase.code → (faultRecord d s).present = false)
      ∧ ∃ s, s = asked .clearTrip [] (inOc .tripped (ready .synced)) ∧ Handed .clearTrip (frame .clearTrip []) s
        ∧ s.oc.state = .tripped ∧ ∀ c : FaultCode, c.forcing = true → (faultRecord c s).present = false := by
  unfold Handed
  refine ⟨fun o => ?_, ⟨_, rfl, by decide⟩, ⟨_, rfl, by decide⟩,
    ⟨_, rfl, by decide, by decide, by decide, by decide, fun d => by cases d <;> decide⟩,
    ⟨_, rfl, by decide, by decide, fun c => by cases c <;> decide⟩⟩
  cases o <;> decide

theorem witness_FaultReadAndMask :
    (∀ b ∈ [0#8, 1#8], Handed .faultRead (frame .faultRead [b]) (asked .faultRead [b] State.reset)
        ∧ Handed .faultRead (frame .faultRead [b]) (asked .faultRead [b] (ready .synced)))
      ∧ (∀ p ∈ [[0#8, 0x80#8], [0xFF#8, 0x7F#8]], Handed .faultMask (frame .faultMask p) (asked .faultMask p (ready .synced)))
      ∧ (u16At [0#8, 0x80#8] 0).testBit 15 = true ∧ (u16At [0xFF#8, 0x7F#8] 0).testBit 15 = false := by
  unfold Handed
  decide

/-- FAULT TEST outside DISARMED; with bit 15; one that makes every fault present; and one that makes no FORCING
fault present. -/
theorem witness_FaultTestAsserts :
    (∃ s, s = asked .faultTest [0#8, 0#8] (inOc .armed (ready .synced))
        ∧ Handed .faultTest (frame .faultTest [0#8, 0#8]) s ∧ s.oc.state ≠ .disarmed)
      ∧ (∃ s, s = asked .faultTest [0#8, 0x80#8] (ready .synced) ∧ Handed .faultTest (frame .faultTest [0#8, 0x80#8]) s
        ∧ s.oc.state = .disarmed ∧ (u16At [0#8, 0x80#8] 0).testBit 15 = true)
      ∧ (∃ s set, set = u16At [0xFF#8, 0x7F#8] 0 ∧ s = asked .faultTest [0xFF#8, 0x7F#8] (ready .synced)
        ∧ Handed .faultTest (frame .faultTest [0xFF#8, 0x7F#8]) s ∧ s.oc.state = .disarmed ∧ set.testBit 15 = false
        ∧ ∃ c : FaultCode, c.forcing = true ∧ set.testBit (c.code - 1) = true ∧ (faultRecord c s).present = false
          ∧ ∀ d : FaultCode, d.forcing = true → d.code < c.code → set.testBit (d.code - 1) = true →
            (faultRecord d s).present = true)
      ∧ ∃ s set, set = u16At [0x01#8, 0#8] 0 ∧ s = asked .faultTest [0x01#8, 0#8] (ready .synced)
        ∧ Handed .faultTest (frame .faultTest [0x01#8, 0#8]) s ∧ s.oc.state = .disarmed ∧ set.testBit 15 = false
        ∧ ∀ c : FaultCode, c.forcing = true → set.testBit (c.code - 1) = true → (faultRecord c s).present = true := by
  unfold Handed
  refine ⟨⟨_, rfl, by decide⟩, ⟨_, rfl, by decide⟩,
    ⟨_, _, rfl, rfl, by decide, by decide, by decide, .demandStale, by decide, by decide, by decide,
      fun d => by cases d <;> decide⟩,
    ⟨_, _, rfl, rfl, by decide, by decide, by decide, fun c => by cases c <;> decide⟩⟩

/-! ### Witnesses of the period operation -/

/-- The record of an operation after `n` stages. -/
def work (n : Nat) : PeriodWork :=
  { PeriodWork.start with done := n, demand := -16000, held := -16000, accepted := 1, share := 1000, transfer := 1, slewStep := 1 }

/-- The record of an operation that stands before its take of the caps, with the limits of profile 0. -/
def beforeTake : PeriodWork := { work 3 with limits := ⟨⟨4000, 2500⟩, ⟨4000, 2500⟩⟩ }

/-- The caps of an axle in the operation that stands. -/
def capsTaken (x : Axle) (s : State) : Option (ByDir Nat) := s.se.work.map fun w => w.caps.get x

/-- A state in which an operation stands after some stages. -/
def standing (w : PeriodWork) (s : State) : State := s.setSe { s.se with work := some w }

theorem profile_of_ready (st : LinkState) (n : Fin 8) :
    ((ready st).pt.slots.get n).profile = some slot0Profile ∨ ((ready st).pt.slots.get n).profile = none := by
  match n with
  | 0 => exact .inl rfl
  | 1 | 2 | 3 | 4 | 5 | 6 | 7 => exact .inr rfl

theorem shares_of_ready (st : LinkState) : SharesInRange (ready st) := by
  refine ⟨⟨fun n p h => ?_, rfl⟩, Nat.le_of_ble_eq_true rfl, Nat.le_of_ble_eq_true rfl, Nat.le_of_ble_eq_true rfl,
    Nat.le_of_ble_eq_true rfl, fun h => nomatch h⟩
  rcases profile_of_ready st n with e | e
  · rw [e] at h; injection h with h; subst h; decide
  · rw [e] at h; cases h

/-- Stage 1: a pending demand; a current one at its hold, and one past it with the held demand on each side of 0 and at 0;
none. -/
theorem witness_PeriodTakesDemand :
    (∀ di ∈ [{ DemandIntake.reset with pending := some ⟨58, -16000⟩ },
             { DemandIntake.reset with current := some ⟨58, 16000, 0⟩ },
             { DemandIntake.reset with current := some ⟨58, 16000, 65535⟩, prevHeld := 1 },
             { DemandIntake.reset with current := some ⟨58, 16000, 65535⟩, prevHeld := -1 },
             { DemandIntake.reset with current := some ⟨58, 16000, 65535⟩, prevHeld := 0 }, DemandIntake.reset],
        PeriodDue ((ready .synced).setDi di)
          ∧ (((ready .synced).setDi di).pt.slots.get ((ready .synced).setDi di).pt.active).profile = some slot0Profile)
      ∧ (0 + 1 ≤ slot0Profile.demandHold ∧ slot0Profile.demandHold < min (65535 + 1) 65535) := by
  unfold PeriodDue Clocked
  refine ⟨?_, by decide⟩
  intro di h
  simp only [List.mem_cons, List.not_mem_nil, or_false] at h
  rcases h with h | h | h | h | h | h <;> subst h <;> decide

/-- A monitor in each of its states, counting in drive and in no direction yet, as the held demand becomes 0, +1 and −1. -/
theorem witness_DirectionChangeEndsSlip :
    (∀ torque ∈ [(0 : Int), 1, -1], ∀ m ∈ [SlipMonitor.reset, ⟨.idle, 1, some .drive, 0, none, false⟩,
        ⟨.grip, 1, some .drive, 2, none, false⟩, ⟨.slip, 1, some .drive, 0, some 1100, true⟩,
        ⟨.recover, 1, some .drive, 0, some 1100, true⟩],
      ∃ s, s = ((ready .synced).setDi { DemandIntake.reset with pending := some ⟨58, torque⟩ }).setSm .rear m
        ∧ PeriodDue s ∧ m = s.sm.get .rear
        ∧ after (exec (.periodExpiry .demand) s) (fun t => decide (t.di.prevHeld = torque)) = true)
      ∧ ∃ s, s = setSlot .slip .rear .drive (some ⟨1100, 0⟩)
          (((ready .synced).setDi { DemandIntake.reset with pending := some ⟨58, -1⟩ }).setSm .rear
            ⟨.slip, 1, some .drive, 0, some 1100, true⟩)
        ∧ PeriodDue s ∧ (s.sm.get .rear).state = .slip ∧ (s.sm.get .rear).counting = some .drive
        ∧ s.ct.slots.get .slip .rear .drive = some ⟨1100, 0⟩
        ∧ after (exec (.periodExpiry .demand) s) (fun t => decide (t.di.prevHeld < 0)) = true
        ∧ after (exec (.periodExpiry .issue .afterTake) s) (fun t =>
            decide ((t.link.rear.inFlight.map StartedFrame.driveLimit) = some 1100)
              && decide (t.ct.slots.get .slip .rear .drive = none)) = true
        ∧ after (exec (.periodExpiry .issue .rearAfterTake) s) (fun t =>
            decide ((t.link.rear.inFlight.map StartedFrame.driveLimit) = some 1100)) = true
        ∧ (∀ o ∈ [SlipOrder.beforeTake, .frontAfterTake], after (exec (.periodExpiry .issue o) s) (fun t =>
            decide ((t.link.rear.inFlight.map StartedFrame.driveLimit) = some 4000)) = true) := by
  unfold PeriodDue Clocked
  refine ⟨fun torque h m k => ⟨_, rfl, ?_⟩, ⟨_, rfl, by decide⟩⟩
  simp only [List.mem_cons, List.not_mem_nil, or_false] at h k
  rcases h with h | h | h <;> subst h <;> rcases k with k | k | k | k | k <;> subst k <;> decide

/-- The stale limit is reached exactly: age 40 periods of 500 µs, 20 ms. One period earlier it is not; nor where OC is not
ARMED, the record is marked, or there is none. -/
theorem witness_StaleDemandTrips :
    (∃ s, s = (inOc .armed (ready .synced)).setDi { DemandIntake.reset with current := some ⟨58, 1000, 39⟩ }
        ∧ PeriodDue s ∧ s.hp.part = .ready ∧ s.oc.state = .armed ∧ s.di.pending = none
        ∧ s.di.current = some ⟨58, 1000, 39⟩ ∧ s.di.staleSignalled = false ∧ 0 < s.hp.params.splitPeriodUs
        ∧ s.hp.params.demandTimeoutMs * 1000 ≤ min (39 + 1) 65535 * s.hp.params.splitPeriodUs)
      ∧ (∃ s, s = (inOc .armed (ready .synced)).setDi { DemandIntake.reset with current := some ⟨58, 1000, 38⟩ }
        ∧ PeriodDue s ∧ 0 < s.hp.params.splitPeriodUs
        ∧ after (exec (.periodExpiry .demand) s) (fun t => decide (t.di.current = some ⟨58, 1000, 39⟩)) = true
        ∧ 39 * s.hp.params.splitPeriodUs < s.hp.params.demandTimeoutMs * 1000)
      ∧ (∃ s, s = (inOc .armed (ready .synced)).setDi
            { DemandIntake.reset with current := some ⟨58, 1000, 39⟩, staleSignalled := true }
        ∧ PeriodDue s ∧ 0 < s.hp.params.splitPeriodUs ∧ s.di.pending = none ∧ s.di.staleSignalled = true)
      ∧ ∃ s, s = ready .synced ∧ PeriodDue s ∧ 0 < s.hp.params.splitPeriodUs ∧ s.oc.state ≠ .armed
        ∧ after (exec (.periodExpiry .demand) s) (fun t => decide (t.di.current = none)) = true := by
  unfold PeriodDue Clocked
  exact ⟨⟨_, rfl, by decide⟩, ⟨_, rfl, by decide⟩, ⟨_, rfl, by decide⟩, ⟨_, rfl, by decide⟩⟩

/-- ARMING with the accepted number later than the mark, and not; ARMED. -/
theorem witness_PeriodReadsOutputState :
    (∃ s, s = inOc .arming (standing (work 1) (ready .synced)) ∧ Standing 1 (work 1) s ∧ s.oc.state = .arming
        ∧ laterThan (work 1).accepted s.oc.armMark = true)
      ∧ (∃ s w, w = { work 1 with accepted := 0 } ∧ s = inOc .arming (standing w (ready .synced)) ∧ Standing 1 w s
        ∧ laterThan w.accepted s.oc.armMark = false)
      ∧ ∃ s, s = inOc .armed (standing (work 1) (ready .synced)) ∧ Standing 1 (work 1) s ∧ s.oc.state ≠ .arming := by
  unfold Standing Clocked
  exact ⟨⟨_, rfl, by decide⟩, ⟨_, _, rfl, rfl, by decide⟩, ⟨_, rfl, by decide⟩⟩

/-- Load unknown, 400, 401, 799 and 800; with a blend at its last step, and without; an entry in a slot and one in the
pool. -/
theorem witness_PeriodTakesSharesAndCaps :
    (∀ q ∈ [(false, 0), (true, 400), (true, 401), (true, 799), (true, 800)], ∀ b,
        ∃ s, s = (setSlot .track .rear .regen (some ⟨0, 0⟩) (withPool (poolOf 1) (standing (work 2) (ready .synced)))).setDi
              { DemandIntake.reset with rearLoadKnown := q.1, rearLoad := q.2 }
          ∧ ∃ u, u = s.setPt { s.pt with blendRunning := b, blendLength := 1 }
          ∧ Standing 2 (work 2) u ∧ SharesInRange u ∧ (u.pt.slots.get u.pt.active).profile = some slot0Profile
          ∧ u.di.rearLoadKnown = q.1 ∧ u.di.rearLoad = q.2 ∧ u.pt.blendRunning = b
          ∧ u.ct.slots.get .track .rear .regen = some ⟨0, 0⟩ ∧ ∃ e ∈ u.ct.pool, e.axle = .front ∧ e.dir = .drive)
      ∧ (401 = 400 + 50 * 0 + 1 ∧ 0 < 50 * 0 + 1) ∧ 799 = 400 + 50 * 7 + 49 := by
  refine ⟨fun q _ b => ⟨_, rfl, _, rfl, ?_, ?_, ?_, rfl, rfl, rfl, rfl, _, List.mem_cons_self, rfl, rfl⟩, by decide, by decide⟩
  · exact ⟨⟨rfl, rfl⟩, rfl, rfl, rfl⟩
  · obtain ⟨⟨h1, h2⟩, h3, h4, h5, h6, -⟩ := shares_of_ready .synced
    exact ⟨⟨h1, h2⟩, h3, h4, h5, h6, fun _ => Nat.lt_succ_self 0⟩
  · rfl

/-- Transfer off; no excess; one axle's excess, on each side; both; the greatest demand of each sign with no cap at 0, and at
caps of 8000; a rising and a falling target. -/
theorem witness_PeriodSplitsDemand :
    (∀ q ∈ [(0, 500, 8000, 8000), (1, 500, 8000, 8000), (1, 1000, 7999, 8000), (1, 0, 8000, 7999), (1, 500, 0, 0)],
        ∀ d ∈ [(-16000 : Int), 0, 16000],
        ∃ w s, w = { work 4 with demand := d, transfer := q.1, share := q.2.1,
                                 caps := ⟨⟨q.2.2.1, q.2.2.1⟩, ⟨q.2.2.2, q.2.2.2⟩⟩ }
          ∧ s = standing w (ready .synced) ∧ Standing 4 w s ∧ w.share ≤ 1000)
      ∧ (∃ p c : ByAxle Int, p = splitParts 16000 1000 ∧ c = clampParts p ⟨7999, 8000⟩ ∧ p.front ≠ c.front ∧ p.rear = c.rear)
      ∧ (∃ p c : ByAxle Int, p = splitParts 16000 0 ∧ c = clampParts p ⟨8000, 7999⟩ ∧ p.front = c.front ∧ p.rear ≠ c.rear)
      ∧ (∃ p c : ByAxle Int, p = splitParts 16000 500 ∧ c = clampParts p ⟨0, 0⟩ ∧ p.front ≠ c.front ∧ p.rear ≠ c.rear)
      ∧ ∃ p c : ByAxle Int, p = splitParts 16000 500 ∧ c = clampParts p ⟨8000, 8000⟩ ∧ p.front = c.front
        ∧ p.rear = c.rear := by
  unfold Standing Clocked
  refine ⟨fun q h d _ => ⟨_, _, rfl, rfl, ⟨⟨rfl, rfl⟩, rfl, rfl, rfl⟩, ?_⟩, ⟨_, _, rfl, rfl, by decide⟩, ⟨_, _, rfl, rfl, by decide⟩,
    ⟨_, _, rfl, rfl, by decide⟩, ⟨_, _, rfl, rfl, by decide⟩⟩
  simp only [List.mem_cons, List.not_mem_nil, or_false] at h
  show q.2.1 ≤ 1000
  rcases h with h | h | h | h | h <;> subst h <;> decide

/-- R106: a fifth frame on a free line leaves the last three of the four entries before its own. -/
theorem test_ringKeepsOlderEntries :
    after (exec (.periodExpiry .issue) (standing (work 9) ((ready .synced).setLink .front
        { AxleLink.reset with
          state := .synced, frameSeq := 4#8
          ring := [⟨1#8, 10, false, 1⟩, ⟨2#8, 20, false, 2⟩, ⟨3#8, 30, true, 3⟩, ⟨4#8, 40, true, 4⟩] })))
      (fun t => decide (t.link.front.ring
        = [⟨2#8, 20, false, 2⟩, ⟨3#8, 30, true, 3⟩, ⟨4#8, 40, true, 4⟩, ⟨5#8, 0, false, 0⟩])) = true := by
  decide

/-- The front line busy with a break, the rear one free with a service at its last send; and both lines free. -/
theorem witness_PeriodIssuesCommands :
    (∃ s, s = ((standing (work 9) (ready .synced)).setLink .front
              { AxleLink.reset with state := .synced, breakSending := true }).setLink .rear
              { AxleLink.reset with state := .synced, service := ⟨.sent, 1#8, 0, 16⟩ }
        ∧ Standing 9 (work 9) s ∧ (s.link.get .front).breakSending = true ∧ (s.link.get .rear).inFlight = none
        ∧ (s.link.get .rear).breakSending = false ∧ (s.link.get .rear).service.state = .sent
        ∧ 16 ≤ (s.link.get .rear).service.sentCount)
      ∧ ∃ s, s = ((standing (work 9) (ready .synced)).setLink .front
              { AxleLink.reset with state := .synced, service := ⟨.queued, 1#8, 0, 0⟩ }).setLink .rear
              { AxleLink.reset with state := .synced, service := ⟨.sent, 1#8, 0, 15⟩ }
        ∧ Standing 9 (work 9) s ∧ (s.link.get .front).inFlight = none ∧ (s.link.get .front).breakSending = false
        ∧ (s.link.get .front).service.state = .queued ∧ (s.link.get .rear).service.state = .sent
        ∧ (s.link.get .rear).service.sentCount < 16 := by
  unfold Standing Clocked
  exact ⟨⟨_, rfl, by decide⟩, ⟨_, rfl, by decide⟩⟩

/-- Stage 11 with SHORTFALL becoming live and staying absent; stage 12 with a report due and not, and a SYNC that awaits this
period. -/
theorem witness_PeriodMonitorsAndReports :
    (∃ s w, w = { work 10 with shortfall := -1, shortfallCount := 1 } ∧ s = standing w (ready .synced) ∧ Standing 10 w s
        ∧ w.shortfallThreshold < w.shortfall.natAbs ∧ decide (w.shortfallCount ≤ 1) ≠ s.se.shortfallLive)
      ∧ (∃ s w, w = { work 10 with shortfallCount := 1 } ∧ s = standing w (ready .synced) ∧ Standing 10 w s
        ∧ decide (w.shortfallCount ≤ 0) = s.se.shortfallLive)
      ∧ (∃ s, s = standing (work 11) ((ready .synced).setHp { (ready .synced).hp with pendingSync := some ⟨1#8, 0⟩ })
        ∧ Standing 11 (work 11) s ∧ decide (s.hp.params.reportInterval ≠ 0 ∧ s.hp.params.reportInterval ≤ s.se.reportCount + 1) = true
        ∧ s.hp.pendingSync = some ⟨1#8, 0⟩ ∧ s.se.periodNumber = 0)
      ∧ ∃ s, s = standing (work 11) ((ready .synced).setHp { (ready .synced).hp with params := { params with reportInterval := 0 } })
        ∧ Standing 11 (work 11) s ∧ s.hp.params.reportInterval = 0 := by
  unfold Standing Clocked
  exact ⟨⟨_, _, rfl, rfl, by decide⟩, ⟨_, _, rfl, rfl, by decide⟩, ⟨_, rfl, by decide⟩, ⟨_, rfl, by decide⟩⟩

/-- A period due; an operation in progress with a SYNC that awaits it, which REFCLK_STOPS completes and answers; no operation, and
one as no run leaves it, with REFCLK absent. -/
theorem witness_PeriodOperationCompletes :
    PeriodDue (ready .synced)
      ∧ (∃ s, s = standing (work 5) ((ready .synced).setHp { (ready .synced).hp with pendingSync := some ⟨1#8, 0⟩ })
        ∧ Clocked s ∧ s.se.work = some (work 5)
        ∧ after (exec (.refclkStops ⟨1, 2, 0, ⟨0, 0, 0⟩, ⟨0, 0, 0⟩⟩) s) (fun t =>
            decide (t.se.work = none) && decide (t.hp.pendingSync = none) && !t.tb.refclk
              && decide ((outbox t).getLast? = some ⟨0x86#8, 1#8, [0#8, 0#8, 0#8, 0#8, 0#8]⟩)) = true)
      ∧ (∃ s, s = { standing (work 5) (ready .synced) with tb := { Timebase.reset with refclk := false } }
        ∧ s.tb.refclk = false)
      ∧ (State.reset.se.work = none ∧ State.reset.se.timerRunning = false)
      ∧ ∃ s, s = { ready .synced with tb := { Timebase.reset with refclk := false } } ∧ s.se.work = none
        ∧ s.tb.refclk = false := by
  unfold PeriodDue Clocked
  exact ⟨by decide, ⟨_, rfl, by decide +kernel⟩, ⟨_, rfl, rfl⟩, by decide, ⟨_, rfl, rfl, rfl⟩⟩

/-! ### Witnesses of the timers, the lines and the monitors -/

/-- An entry with 1 ms left beside one with 2; a window with 1 ms left, and one with 50. -/
theorem witness_HostEntryAndArmWindowExpiry :
    (∃ s, s = withPool [⟨.host0, .front, .drive, 1, 0, some 1⟩, ⟨.host1, .front, .drive, 1, 0, some 2⟩] (ready .synced)
        ∧ Clocked s
        ∧ after (exec (.hostEntryExpiry .host0 .front .drive) s) (fun t => decide (t.ct.pool.length = 1)) = true
        ∧ after (exec (.hostEntryExpiry .host1 .front .drive) s) (fun t => decide (t.ct.pool.length = 2)) = true)
      ∧ (∃ s, s = (ready .synced).setOc { OutputControl.reset with state := .arming, armWindow := some 1 }
        ∧ Clocked s ∧ s.oc.state = .arming ∧ s.oc.armWindow = some 1)
      ∧ (ready .synced).oc.state ≠ .arming ∧ ((inOc .arming (ready .synced)).oc.armWindow = some 50 ∧ 1 < 50)
      ∧ ({ State.reset with tb := { Timebase.reset with refclk := false } } : State).tb.refclk = false := by
  unfold Clocked
  exact ⟨⟨_, rfl, by decide⟩, ⟨_, rfl, by decide⟩, by decide, by decide, by decide⟩

/-- The timer stopped, and with 5 ms left; each state with 1 ms left; the other link in no trouble, and the other link out; a
take before and between the LINK posts. -/
theorem witness_LinkTimerExpiryLosesLink :
    Axle.rear ≠ .front ∧ (State.reset.link.get .front).timer = none
      ∧ ((ready .synced).link.get .front).timer = some 5
      ∧ (∀ st ∈ [LinkState.off, .broken], ((ready st).link.get .front).state = st)
      ∧ (∀ st ∈ [LinkState.starting, .synced, .hunt, .lost],
        ∃ s, s = timersAt 1 (ready st) ∧ Clocked s ∧ (s.link.get .front).state = st
          ∧ (s.link.get .front).timer = some 1 ∧ s.out.rearOut = false ∧ s.out.noAxleLive = false)
      ∧ (∃ s, s = (timersAt 1 (ready .synced)).setOut ⟨false, true, false⟩
        ∧ Clocked s ∧ (s.link.get .front).timer = some 1 ∧ (s.link.get .front).state = .synced
        ∧ s.out.rearOut = true ∧ s.out.noAxleLive = false ∧ (faultRecord .noAxle s).present = false ∧ s.hp.part = .ready
        ∧ s.oc.state ≠ .tripped)
      ∧ ∃ s, s = standing beforeTake (timersAt 1 (ready .synced))
        ∧ Clocked s ∧ (s.link.get .front).timer = some 1 ∧ (s.link.get .front).state = .synced ∧ Standing 3 beforeTake s
        ∧ after (exec (.linkTimerExpiry .front [(.beforeLink, .period .caps)]) s)
            (fun t => decide (capsTaken .front t = some ⟨4000, 2500⟩)) = true
        ∧ after (exec (.linkTimerExpiry .front [(.link, .period .caps)]) s)
            (fun t => decide (capsTaken .front t = some ⟨0, 2500⟩)) = true := by
  unfold Standing Clocked
  refine ⟨by decide, by decide, by decide, by decide, fun st h => ⟨_, rfl, ?_⟩, ⟨_, rfl, by decide⟩, ⟨_, rfl, by decide⟩⟩
  simp only [List.mem_cons, List.not_mem_nil, or_false] at h
  rcases h with h | h | h | h <;> subst h <;> decide

/-- A formed frame that was enabled. -/
def formed : FormedFrame := ⟨9#8, true, 8000, 4000, 2500, 4⟩

/-- The state with a frame in flight and one waiting on each link. -/
def bothBusy (s : State) : State :=
  let busy (l : AxleLink) := { l with inFlight := some (fillFrame formed true none none), waiting := some formed }
  (s.setLink .front (busy (s.link.get .front))).setLink .rear (busy (s.link.get .rear))

/-- A frame that ends with one waiting, in each state of the outbound slot; a break that ends with none, and what a software
reset left on each line; a trip that meets a completion from each state that OC can trip from, and one of a DEMAND_STALE. -/
theorem witness_LineFreedStartsWaiting :
    (∀ slot ∈ [ServiceSlot.reset, ⟨.queued, 1#8, 2, 0⟩, ⟨.sent, 1#8, 2, 15⟩, ⟨.sent, 1#8, 2, 16⟩, ⟨.done, 1#8, 2, 3⟩],
        ∃ s, s = (ready .synced).setLink .front
          { AxleLink.reset with
            state := .synced, inFlight := some (fillFrame formed true none none), waiting := some formed, service := slot
            ring := [⟨9#8, 8000, true, 4⟩] }
        ∧ Clocked s ∧ (s.link.get .front).inFlight.isSome = true ∧ (s.link.get .front).waiting = some formed
        ∧ formed.enable = true ∧ s.oc.state ≠ .armed ∧ (s.link.get .front).service = slot)
      ∧ (∃ s, s = (ready .synced).setLink .rear { AxleLink.reset with state := .synced, breakSending := true }
        ∧ s.resetnLow = false ∧ (s.link.get .rear).breakSending = true ∧ (s.link.get .rear).waiting = none)
      ∧ (∃ s, s = State.reset.setLink .front { AxleLink.reset with tail := .frame (fillFrame formed false none none) 42 }
        ∧ Clocked s ∧ (s.link.get .front).inFlight = none
        ∧ (s.link.get .front).tail = .frame (fillFrame formed false none none) 42)
      ∧ (∃ s, s = State.reset.setLink .front { AxleLink.reset with tail := .brk }
        ∧ s.resetnLow = false ∧ (s.link.get .front).breakSending = false ∧ (s.link.get .front).tail = .brk)
      ∧ (∀ o ∈ [OcState.disarmed, .arming, .armed], ∃ s, s = bothBusy (asked .torqueOff [] (inOc o (ready .synced)))
        ∧ Clocked s ∧ (s.link.get .front).inFlight.isSome = true ∧ Handed .torqueOff (frame .torqueOff []) s
        ∧ s.oc.state = o)
      ∧ (∀ c ∈ [(8, Stage.shortfall), (10, .monitor)], ∃ s, s = bothBusy (standing
            { beforeTake with done := c.1, staleTripAt := some (c.1 + 2) } (inOc .armed (ready .synced)))
        ∧ Clocked s ∧ (s.link.get .rear).inFlight.isSome = true
        ∧ after (exec (.periodExpiry c.2) (freeLine .rear s)) (fun t =>
            t.se.work.any (fun w => decide (w.done = c.1 + 1) && decide (w.staleTripAt = some (c.1 + 2)))
              && decide (t.hp.part = .ready) && decide (t.oc.state = .armed)) = true)
      ∧ ∃ s, s = bothBusy (standing { beforeTake with done := 9 } (ready .synced))
        ∧ stageNumber .issue ≤ stageNumber .report ∧ ∀ w, s.se.work = some w → w.done < stageNumber .issue := by
  unfold Clocked Handed
  refine ⟨fun slot _ => ⟨_, rfl, ⟨rfl, rfl⟩, rfl, rfl, rfl, (fun h => by cases h), rfl⟩, ⟨_, rfl, by decide⟩,
    ⟨_, rfl, by decide, rfl, rfl⟩, ⟨_, rfl, by decide⟩, fun o h => ⟨_, rfl, ?_⟩, fun c h => ⟨_, rfl, ?_⟩,
    ⟨_, rfl, by decide, fun w h => by cases h; decide⟩⟩
  · simp only [List.mem_cons, List.not_mem_nil, or_false] at h
    rcases h with h | h | h <;> subst h <;> decide
  · simp only [List.mem_cons, List.not_mem_nil, or_false] at h
    rcases h with h | h <;> subst h <;> decide

/-- The completion first, with a frame waiting on both links (R108): the frame that waits is discarded without having started,
and has where the trip comes later; where a window end brings no trip, it has started too. -/
theorem test_completionFirstDiscardsWaiting :
    after (exec (.commandFrameComplete .front (some ⟨.torqueOff, true⟩)) (bothBusy (asked .torqueOff [] (ready .synced))))
        (fun t => decide (t.oc.state = .tripped) && decide (t.link.get .front
          = { (bothBusy (ready .synced)).link.get .front with inFlight := none, waiting := none, breakSending := true })) = true
      ∧ after (exec (.commandFrameComplete .front) (bothBusy (asked .torqueOff [] (ready .synced))))
        (fun s => after (exec .torqueOff s) fun t => decide ((t.link.get .front).counters.framesSent = 1)) = true
      ∧ after (exec (.commandFrameComplete .rear (some ⟨.windowEnd 20000, false⟩)) (bothBusy (ready .synced)))
        (fun t => decide (t.tb.insideRun = 1) && decide ((t.link.get .rear).lastStarted = some formed.seq)) = true := by
  decide +kernel

/-- Every field at an end of its range, in each of the four receiving states; the recovery count one short and complete. -/
theorem witness_StatusFrameIsAccepted :
    (∃ f : StatusFrame, f = ⟨0#8, 0#8, -32768, 65535, 0, 32767, 1#8, 255#8, 65535⟩
        ∧ -32768 ≤ f.torque ∧ f.torque ≤ 32767 ∧ -32768 ≤ f.speed ∧ f.speed ≤ 32767 ∧ f.availDrive < 65536
        ∧ f.availRegen < 65536 ∧ f.noticeArg < 65536)
      ∧ (∀ st ∈ [LinkState.starting, .synced, .hunt, .lost],
        Clocked (ready st) ∧ ((ready st).link.get .rear).partialBytes = [] ∧ ((ready st).link.get .rear).state = st
          ∧ ((ready st).link.get .rear).recovery + 1 < (ready st).hp.params.linkRecoverFrames)
      ∧ (∃ s, s = (ready .lost).setLink .rear { AxleLink.reset with state := .lost, timer := some 5, recovery := 1 }
        ∧ Clocked s ∧ (s.link.get .rear).partialBytes = [] ∧ (s.link.get .rear).state = .lost
        ∧ s.hp.params.linkRecoverFrames ≤ (s.link.get .rear).recovery + 1
        ∧ Standing 3 beforeTake (standing beforeTake s))
      ∧ ∃ s, s = standing beforeTake (ready .synced) ∧ Clocked s ∧ (s.link.get .rear).partialBytes = []
        ∧ (s.link.get .rear).state = .synced ∧ Standing 3 beforeTake s
        ∧ after (exec (.statusFrameAccepted .rear { statusFrame 0 with availDrive := 100, availRegen := 200 }.bytes
              [(.inverter, .period .caps)]) s) (fun t => decide (capsTaken .rear t = some ⟨100, 2500⟩)) = true := by
  unfold Standing Clocked
  exact ⟨⟨_, rfl, by decide⟩, by decide, ⟨_, rfl, by decide⟩, ⟨_, rfl, by decide, by decide, by decide, by decide, by decide +kernel⟩⟩

/-- Against a full notice slot: no notice, the code acknowledged, the code held, the code lost before, and a new one, with an
awaited echo; against an empty slot, a notice with no service sent. -/
theorem witness_AcceptedNoticeAndEcho :
    (∀ st ∈ [LinkState.synced, .hunt, .starting, .lost], ∀ code ∈ [0#8, 6#8, 5#8, 7#8, 255#8],
        ∃ (s : State) (f : StatusFrame), f = { statusFrame 0 with serviceEcho := 1#8, noticeCode := code, noticeArg := 65535 }
          ∧ s = (ready .synced).setLink .rear
              { AxleLink.reset with
                state := st, timer := some 5, notice := some (5#8, 0), ackCode := some 6#8, lostNotice := some 7#8
                service := ⟨.sent, 1#8, 0, 16⟩ }
          ∧ Clocked s ∧ (s.link.get .rear).partialBytes = [] ∧ (s.link.get .rear).state = st
          ∧ (-32768 ≤ f.torque ∧ f.torque ≤ 32767 ∧ -32768 ≤ f.speed ∧ f.speed ≤ 32767 ∧ f.availDrive < 65536
            ∧ f.availRegen < 65536 ∧ f.noticeArg < 65536)
          ∧ (s.link.get .rear).service.state = .sent ∧ (s.link.get .rear).service.code = f.serviceEcho)
      ∧ ((255 : Byte) ≠ 0 ∧ some (6 : Byte) ≠ some 255 ∧ (5 : Byte) ≠ 255 ∧ some (7 : Byte) ≠ some 255)
      ∧ ∃ (s : State) (f : StatusFrame), f = { statusFrame 0 with noticeCode := 1#8, noticeArg := 65535 } ∧ s = ready .synced
        ∧ Clocked s ∧ (s.link.get .rear).partialBytes = [] ∧ (s.link.get .rear).state = .synced
        ∧ (f.availDrive < 65536 ∧ f.availRegen < 65536 ∧ f.noticeArg < 65536) ∧ f.noticeCode ≠ 0
        ∧ (s.link.get .rear).ackCode ≠ some f.noticeCode ∧ (s.link.get .rear).notice = none
        ∧ (s.link.get .rear).service.state ≠ .sent := by
  unfold Clocked
  refine ⟨fun st k code h => ⟨_, _, rfl, rfl, ⟨rfl, rfl⟩, rfl, rfl, ?_⟩, by decide, ⟨_, _, rfl, rfl, by decide⟩⟩
  simp only [List.mem_cons, List.not_mem_nil, or_false] at h
  rcases h with h | h | h | h | h <;> subst h <;> exact ⟨by decide, rfl, rfl⟩

/-- SYNCED: 18 bytes without a sync word, 18 bytes with a false CRC, a partial frame at a gap, as the second and as the third
in a row. The other states: a false CRC, a candidate cut by a gap, and a partial sync word. -/
theorem witness_BadStatusFrames :
    (∀ n ∈ [1, 2], ∀ b ∈ [[], [0x6B#8]],
        ∃ s, s = (ready .synced).setLink .front { AxleLink.reset with state := .synced, partialBytes := b, badRun := n }
          ∧ Clocked s ∧ (s.link.get .front).state = .synced ∧ (s.link.get .front).partialBytes = b
          ∧ (s.link.get .front).badRun = n)
      ∧ ((List.replicate 18 (0#8 : Byte)).length = 18 ∧ beginsWithSync (List.replicate 18 0) = false)
      ∧ (([0x6B#8, 0x94#8] ++ List.replicate 16 0).length = 18
        ∧ beginsWithSync ([0x6B#8, 0x94#8] ++ List.replicate 16 0) = true
        ∧ statusCrcGood ([0x6B#8, 0x94#8] ++ List.replicate 16 0) = false)
      ∧ (1 + 1 < 3 ∧ 3 ≤ 2 + 1)
      ∧ (∀ st ∈ [LinkState.starting, .hunt, .lost], Clocked (ready st) ∧ ((ready st).link.get .front).state = st
        ∧ ((ready st).link.get .front).partialBytes = [])
      ∧ (∃ s, s = (ready .hunt).setLink .front { AxleLink.reset with state := .hunt, partialBytes := [0x6B#8, 0x94#8] }
        ∧ Clocked s ∧ (s.link.get .front).state = .hunt ∧ (s.link.get .front).partialBytes = 0x6B#8 :: 0x94#8 :: []
        ∧ (0x6B#8 : Byte) ∉ ([] : List Byte))
      ∧ ∃ s, s = (ready .lost).setLink .front { AxleLink.reset with state := .lost, partialBytes := [0x6B#8] }
        ∧ (s.link.get .front).partialBytes = [0x6B#8] ∧ (s.link.get .front).state ≠ .synced := by
  unfold Clocked
  refine ⟨fun n h b k => ⟨_, rfl, ?_⟩, by decide, by decide +kernel, by decide, by decide, ⟨_, rfl, by decide⟩, ⟨_, rfl, by decide⟩⟩
  simp only [List.mem_cons, List.not_mem_nil, or_false] at h k
  rcases h with h | h <;> rcases k with k | k <;> subst h <;> subst k <;> decide

theorem witness_LowLineBreaksLink :
    (∀ st ∈ [LinkState.starting, .synced, .hunt, .lost], Clocked (ready st) ∧ ((ready st).link.get .front).state = st
        ∧ st ≠ .off ∧ st ≠ .broken ∧ (ready st).out.rearOut = false ∧ (ready st).out.noAxleLive = false)
      ∧ ((ready .broken).resetnLow = false ∧ ((ready .broken).link.get .front).state = .broken)
      ∧ (State.reset.link.get .front).state = .off
      ∧ (∃ s, s = (ready .starting).setOut ⟨false, true, false⟩ ∧ Clocked s ∧ (s.link.get .front).state = .starting
        ∧ s.out.rearOut = true ∧ s.out.noAxleLive = false ∧ (faultRecord .noAxle s).present = false ∧ s.hp.part = .ready
        ∧ s.oc.state ≠ .tripped)
      ∧ ∃ s, s = standing beforeTake (ready .hunt) ∧ Clocked s ∧ (s.link.get .front).state = .hunt ∧ Standing 3 beforeTake s
        ∧ after (exec (.lineLow90us .front [(.link, .period .caps)]) s)
            (fun t => decide (capsTaken .front t = some ⟨0, 2500⟩)) = true := by
  unfold Standing Clocked
  exact ⟨by decide, by decide, by decide, ⟨_, rfl, by decide⟩, ⟨_, rfl, by decide⟩⟩

/-- Judged: a monitor in each of its states, in each direction, with the wheel at the ends of the bands. Not judged: OC not
ARMED, the speed unknown, no monitored direction, and a link that recovers. -/
theorem witness_SlipMonitorJudges :
    (∀ st ∈ [SmState.idle, .grip, .slip, .recover], ∀ d ∈ [(Direction.drive, (1 : Int)), (.regen, -1)],
        ∃ s, s = ((inOc .armed (ready .synced)).setDi
              { DemandIntake.reset with refSpeed := 500, refSpeedKnown := true }).setSm .front
              ⟨st, d.2, some d.1, 0, some 1100, true⟩
          ∧ Clocked s ∧ (s.link.get .front).partialBytes = [] ∧ (s.link.get .front).state = .synced ∧ s.oc.state = .armed
          ∧ s.di.refSpeedKnown = true ∧ (s.sm.get .front).monitored ≠ 0 ∧ (s.sm.get .front).counting = some d.1
          ∧ (s.pt.slots.get s.pt.active).profile = some slot0Profile ∧ slot0Profile.slipOff < slot0Profile.slipOn
          ∧ (s.sm.get .front).state = st ∧ (s.sm.get .front).cap = some 1100)
      ∧ (∀ speed ∈ [(575 : Int), 540, 539], -32768 ≤ (statusFrame speed).speed ∧ (statusFrame speed).speed ≤ 32767
        ∧ (statusFrame speed).availDrive < 65536 ∧ (statusFrame speed).availRegen < 65536
        ∧ (statusFrame speed).noticeArg < 65536)
      ∧ (Int.tdiv (((statusFrame 575).speed - 500) * 1000) (max ((500 : Int).natAbs : Int) 100) = slot0Profile.slipOn
        ∧ Int.tdiv (((statusFrame 540).speed - 500) * 1000) (max ((500 : Int).natAbs : Int) 100) = slot0Profile.slipOff
        ∧ Int.tdiv (((statusFrame 539).speed - 500) * 1000) (max ((500 : Int).natAbs : Int) 100) < slot0Profile.slipOff)
      ∧ (slot0Profile.slipCount ≤ 2 + 1 ∧ 1 + 1 < slot0Profile.slipCount)
      ∧ (slot0Profile.driveLimitFront ≤ 3950 + slot0Profile.recoverStep
        ∧ 3949 + slot0Profile.recoverStep < slot0Profile.driveLimitFront)
      ∧ ((ready .synced).oc.state ≠ .armed ∧ (inOc .armed (ready .synced)).di.refSpeedKnown = false
        ∧ (inOc .armed (ready .synced)).sm.front.monitored = 0)
      ∧ ∃ s, s = inOc .armed (ready .lost) ∧ Clocked s ∧ (s.link.get .front).partialBytes = []
        ∧ (s.link.get .front).state = .lost ∧ (s.link.get .front).recovery + 1 < s.hp.params.linkRecoverFrames := by
  unfold Clocked
  refine ⟨fun st h d k => ⟨_, rfl, ?_⟩, by decide, by decide, by decide, by decide, by decide, ⟨_, rfl, by decide⟩⟩
  simp only [List.mem_cons, List.not_mem_nil, or_false] at h k
  rcases h with h | h | h | h <;> rcases k with k | k <;> subst h <;> subst k <;> decide

/-- The third bad frame in a row holds the sync word of another: the scan of HUNT does not take it in (log 41). -/
theorem test_thirdBadFrameIsNotScanned :
    after (exec (.statusFrameBad .front ([0#8, 0x6B#8, 0x94#8] ++ List.replicate 15 0#8) false)
        ((ready .synced).setLink .front { AxleLink.reset with state := .synced, badRun := 2 }))
      (fun t => decide (t.link.front.state = .hunt) && decide (t.link.front.partialBytes = [])) = true := by
  decide +kernel

/-- An echo in the ring and one out of it; a deviation of the threshold, and one above it before and at the last frame of the
run; OC not ARMED. -/
theorem witness_TrackingMonitorJudges :
    (∀ run ∈ [6, 7], ∀ o ∈ [OcState.armed, .disarmed],
        ∃ s, s = ((inOc o (ready .synced)).setLink .front
              { AxleLink.reset with state := .synced, ring := [⟨9#8, 900, true, 4⟩] }).setTm .front ⟨run⟩
          ∧ Clocked s ∧ (s.link.get .front).partialBytes = [] ∧ (s.link.get .front).state = .synced
          ∧ (s.pt.slots.get s.pt.active).profile = some slot0Profile
          ∧ (s.link.get .front).ring.find? (fun e => decide (e.seq = 9#8)) = some ⟨9#8, 900, true, 4⟩
          ∧ (∀ e ∈ (s.link.get .front).ring, e.seq ≠ 8#8) ∧ (s.tm.get .front).run = run
          ∧ ∀ d, s.ct.slots.get .track .front d = none)
      ∧ (((1500 : Int) - 900).natAbs ≤ slot0Profile.trackThreshold ∧ slot0Profile.trackThreshold < ((1501 : Int) - 900).natAbs)
      ∧ (6 + 1 < slot0Profile.trackCount ∧ slot0Profile.trackCount ≤ 7 + 1)
      ∧ ((statusFrame 0).torque = 1500 ∧ (statusFrame 0).availDrive < 65536 ∧ (statusFrame 0).availRegen < 65536
        ∧ (statusFrame 0).noticeArg < 65536)
      ∧ ∃ s, s = asked .capWithdrawSource [3#8] (standing beforeTake (((inOc .armed (ready .synced)).setLink .front
            { AxleLink.reset with state := .synced, ring := [⟨0#8, -900, true, 4⟩] }).setTm .front ⟨7⟩))
        ∧ Clocked s ∧ Standing 3 beforeTake s ∧ s.di.refSpeedKnown = false
        ∧ Handed .capWithdrawSource (frame .capWithdrawSource [3#8]) s ∧ u8At (frame .capWithdrawSource [3#8]).payload 0 = 3
        ∧ (∀ z d, s.ct.slots.get .track z d = none)
        ∧ after (exec (.statusFrameAccepted .front (statusFrame 0).bytes [(.track, .period .caps)]) s)
            (fun t => decide (capsTaken .front t = some ⟨0, 2500⟩)) = true
        ∧ after (exec (.statusFrameAccepted .front (statusFrame 0).bytes [(.track, .capWithdrawSource)]) s)
            (fun t => decide (t.ct.slots.get .track .front .drive = none)
              && decide (t.ct.slots.get .track .front .regen = some ⟨0, 0⟩)
              && (faultRecord .trackF t).live) = true := by
  unfold Standing Clocked Handed
  refine ⟨fun run h o k => ⟨_, rfl, ?_, ?_, ?_, ?_, ?_, ?_, ?_, fun d => by cases d <;> rfl⟩, by decide, by decide, by decide,
    ⟨_, rfl, by decide, by decide, by decide, by decide, by decide, fun z d => by cases z <;> cases d <;> rfl,
      by decide +kernel, by decide +kernel⟩⟩ <;>
  · simp only [List.mem_cons, List.not_mem_nil, or_false] at h k
    rcases h with h | h <;> rcases k with k | k <;> subst h <;> subst k <;> decide

/-- Windows at both ends of the range and one past each; a change to live with the part not TRIPPED, and a change back. -/
theorem witness_ClockCheckJudges :
    ((ready .synced).resetnLow = false ∧ true = decide (19600 ≤ 19600 ∧ 19600 ≤ 20400)
        ∧ true = decide (19600 ≤ 20400 ∧ 20400 ≤ 20400)
        ∧ false = decide (19600 ≤ 19599 ∧ 19599 ≤ 20400) ∧ false = decide (19600 ≤ 20401 ∧ 20401 ≤ 20400))
      ∧ (∃ s, s = { ready .synced with tb := ⟨2, 0, false, true⟩ }
        ∧ s.resetnLow = false ∧ s.tb.timebaseLive = false ∧ (faultRecord .timebase s).present = false
        ∧ s.hp.part = .ready ∧ s.oc.state ≠ .tripped
        ∧ after (exec (.clockCheckWindowEnd 20401) s) (fun t => t.tb.timebaseLive) = true)
      ∧ (∃ s, s = { ready .synced with tb := ⟨0, 2, true, true⟩ } ∧ s.resetnLow = false ∧ s.tb.timebaseLive = true
        ∧ after (exec (.clockCheckWindowEnd 20400) s) (fun t => !t.tb.timebaseLive) = true)
      ∧ (State.reset.resetnLow = false ∧ State.reset.hp.part = .standby)
      ∧ ∃ s, s = asked .arm [] { ready .synced with tb := ⟨2, 0, false, true⟩ } ∧ s.resetnLow = false
        ∧ s.tb.timebaseLive = false ∧ s.oc.state = .disarmed ∧ (∀ x, (s.link.get x).state = .synced)
        ∧ (∀ c, (faultRecord c s).test = false) ∧ (faultRecord .timebase s).live = false
        ∧ Handed .arm (frame .arm []) s
        ∧ after (exec (.clockCheckWindowEnd 20401) s) (fun t => t.tb.timebaseLive) = true
        ∧ after (exec (.clockCheckWindowEnd 20401 [(.forcing, .arm)]) s)
            (fun t => decide (lastReply t = [2#8, 6#8]) && decide (t.oc.state = .tripped)) = true := by
  unfold Handed
  exact ⟨by decide, ⟨_, rfl, by decide⟩, ⟨_, rfl, by decide⟩, by decide,
    ⟨_, rfl, by decide, by decide, by decide, fun x => by cases x <;> rfl, fun c => by cases c <;> rfl, by decide, by decide,
      by decide, by decide⟩⟩

theorem witness_RefclkStopsAndReturns :
    (∃ s, s = (ready .synced).setHp { (ready .synced).hp with sending := some ⟨0x83#8, 1#8, []⟩, framer := some [] }
        ∧ s.tb.refclk = true ∧ s.se.work = none ∧ s.hp.sending = some ⟨0x83#8, 1#8, []⟩ ∧ s.hp.framer = some [])
      ∧ (Clocked (standing (work 5) (ready .synced)) ∧ (standing (work 5) (ready .synced)).se.work = some (work 5))
      ∧ (∃ s, s = ((ready .synced).setLink .front
            { AxleLink.reset with state := .synced, inFlight := some (fillFrame formed true none none), partialBytes := [0x6B#8] }).setLink
              .rear { AxleLink.reset with tail := .frame (fillFrame formed false none none) 0 }
        ∧ s.tb.refclk = true ∧ (s.link.get .front).inFlight = some (fillFrame formed true none none)
        ∧ (s.link.get .rear).tail = .frame (fillFrame formed false none none) 0 ∧ (s.link.get .front).partialBytes ≠ [])
      ∧ ∃ s, s = { State.reset with tb := { Timebase.reset with refclk := false } }
        ∧ s.tb.refclk = false ∧ s.hp.sending = none := by
  exact ⟨⟨_, rfl, by decide⟩, ⟨⟨rfl, rfl⟩, rfl⟩, ⟨_, rfl, rfl, rfl, rfl, by decide⟩, ⟨_, rfl, by decide⟩⟩

/-! ### Witnesses of the Fault Unit's takes -/

/-- The state with a fault's record before a take. -/
def before (c : FaultCode) (r : FaultRecord) (s : State) : State := setFaultRecord c r s

/-- A record whose condition is absent, one held present by test, and one at the end of the count. -/
def absentAt (count : Nat) : FaultRecord := ⟨false, false, false, false, count⟩
def heldByTest : FaultRecord := ⟨false, true, false, false, 7⟩

/-- HOST_LINK becomes live: counted from 254 and at 255, and not where its test field holds it present; it becomes not live at a
good frame, and stays as it is at another. -/
theorem witness_LiveTaken :
    (∀ r ∈ [absentAt 254, absentAt 255, heldByTest],
        ∃ s, s = before .hostLink r ((ready .synced).setHp { (ready .synced).hp with badFrames := 1 })
          ∧ Clocked s ∧ s.hp.framer = none ∧ s.hp.hostLinkLive = false
          ∧ after (exec (.hostFrameReceived [0xC5#8, 1#8]) s) (fun t =>
              t.hp.hostLinkLive
                && decide (faultRecord .hostLink t
                    = { r with live := true, latched := !r.test, count := if r.test then 7 else 255 })) = true)
      ∧ (∀ live, ∃ s, s = (ready .synced).setHp { (ready .synced).hp with badFrames := 8, hostLinkLive := live }
          ∧ Clocked s ∧ s.hp.framer = none ∧ s.hp.hostLinkLive = live
          ∧ after (exec (.hostFrameReceived (frame .status []).bytes) s) (fun t => !t.hp.hostLinkLive) = true) := by
  unfold Clocked
  refine ⟨fun r h => ⟨_, rfl, ?_⟩, fun live => ⟨_, rfl, ?_⟩⟩
  · simp only [List.mem_cons, List.not_mem_nil, or_false] at h
    rcases h with h | h | h <;> subst h <;> decide
  · cases live <;> decide +kernel

/-- HOST_LINK is judged as READY begins and at a write of its limit: below the limit and at it. -/
theorem witness_HostLinkJudged :
    ∀ bad ∈ [1, 2],
      (∃ s, s = asked .setup setupBytes (State.reset.setHp { State.reset.hp with badFrames := bad })
          ∧ Handed .setup (frame .setup setupBytes) s
          ∧ after (exec .setup s) (fun t => decide (t.hp.hostLinkLive = decide (bad = 2))) = true)
        ∧ ∃ s, s = asked .paramSet [0x05#8, 2#8, 0#8] ((ready .synced).setHp
            { (ready .synced).hp with params := { params with hostErrorLimit := 8 }, badFrames := bad })
          ∧ Handed .paramSet (frame .paramSet [0x05#8, 2#8, 0#8]) s
          ∧ after (exec .paramSet s) (fun t => decide (t.hp.hostLinkLive = decide (bad = 2))) = true := by
  unfold Handed
  intro bad h
  simp only [List.mem_cons, List.not_mem_nil, or_false] at h
  rcases h with h | h <;> subst h <;> exact ⟨⟨_, rfl, by decide⟩, ⟨_, rfl, by decide⟩⟩

/-- CAP_FULL on a free port sends 0xE1 with tag 0, code 14, class 0 and the count, before the reply FULL; on a busy port it is a skip,
counted up to 65535; a masked fault, one latched before, and notices disabled give neither. -/
theorem witness_NoticesSent :
    ∃ q s, q = postBytes 7 1 0 1 0 ∧ s = asked .capPost q (withPool (poolOf 12) (ready .synced))
      ∧ Handed .capPost (frame .capPost q) s ∧ PortFree s
      ∧ after (exec .capPost s) (fun t =>
          decide (noticesDue s t = [.capFull])
            && decide (outbox t = [⟨0xE1#8, 0#8, [14#8, 0#8, 1#8]⟩, ⟨0xA0#8, 7#8, [0x0B#8, 12#8]⟩])
            && decide (t.hp.noticeSkips = 0)) = true
      ∧ (∀ n ∈ [65534, 65535], ∃ u, u = s.setHp { s.hp with sending := some (frame .status []), noticeSkips := n }
        ∧ ¬PortFree u ∧ Handed .capPost (frame .capPost q) u
        ∧ after (exec .capPost u) (fun t =>
            decide (noticesDue u t = [.capFull]) && decide (t.hp.txQueue.length = 1)
              && decide (t.hp.noticeSkips = 65535)) = true)
      ∧ ∀ u ∈ [before .capFull { absentAt 0 with masked := true } s, before .capFull { absentAt 0 with latched := true } s,
               s.setHp { s.hp with params := { params with noticesEnable := 0 } }],
          PortFree u ∧ Handed .capPost (frame .capPost q) u
            ∧ after (exec .capPost u) (fun t =>
                decide (noticesDue u t = []) && decide ((outbox t).length = 1) && decide (t.hp.noticeSkips = 0)) = true := by
  unfold Handed PortFree
  refine ⟨_, _, rfl, rfl, by decide, by decide, by decide, fun n h => ⟨_, rfl, ?_⟩, fun u h => ?_⟩
  · simp only [List.mem_cons, List.not_mem_nil, or_false] at h
    rcases h with h | h <;> subst h <;> decide
  · simp only [List.mem_cons, List.not_mem_nil, or_false] at h
    rcases h with h | h | h <;> subst h <;> decide

/-- FAULT TEST of a FORCING and a REPORTING fault: two notices are due; a free port admits that of the lower code, with class 1,
and skips the other; a busy one skips both. -/
theorem witness_NoticesSentInOrder :
    ∀ busy, ∃ s, s = asked .faultTest [0x02#8, 0x08#8] ((ready .synced).setHp
          { (ready .synced).hp with sending := if busy then some (frame .status []) else none })
      ∧ Handed .faultTest (frame .faultTest [0x02#8, 0x08#8]) s ∧ s.oc.state = .disarmed
      ∧ (u16At [0x02#8, 0x08#8] 0).testBit 15 = false ∧ (PortFree s ↔ busy = false)
      ∧ after (exec .faultTest s) (fun t =>
          decide (noticesDue s t = [.demandStale, .shortfall]) && decide (t.hp.noticeSkips = if busy then 2 else 1)
            && decide ((outbox t).head?
              = some (if busy then frame .status [] else ⟨0xE1#8, 0#8, [2#8, 1#8, 1#8]⟩))) = true := by
  unfold Handed PortFree
  intro busy
  refine ⟨_, rfl, ?_⟩
  cases busy <;> decide

/-- OC leaves ARMED with one Slip Monitor live and the other not. -/
theorem witness_LeavingArmed :
    ∀ k ∈ [RequestKind.disarm, .torqueOff],
      ∃ s, s = asked k [] ((inOc .armed (ready .synced)).setSm .front ⟨.slip, 1, some .drive, 0, some 1100, true⟩)
        ∧ Handed k (frame k []) s ∧ s.oc.state = .armed ∧ (s.sm.get .front).live = true ∧ (s.sm.get .rear).live = false
        ∧ (s.sm.get .front).cap.isSome = true ∧ (s.sm.get .front).counting = some .drive ∧ (s.sm.get .rear).cap = none := by
  unfold Handed
  intro k h
  refine ⟨_, rfl, ?_⟩
  simp only [List.mem_cons, List.not_mem_nil, or_false] at h
  rcases h with h | h <;> subst h <;> decide

/-- A link that goes out, with NO_AXLE live already and its link the second out, and with NO_AXLE live as no run leaves it. -/
theorem witness_NoAxleFollows :
    ∀ st ∈ [LinkState.starting, .synced, .hunt], ∀ o ∈ [OutRecord.mk false true true, .mk false false true],
      ∃ s, s = (timersAt 1 (ready st)).setOut o
        ∧ Clocked s ∧ (s.link.get .front).state = st ∧ (s.link.get .front).timer = some 1 ∧ s.out.noAxleLive = true
        ∧ s.out.rearOut = o.rearOut := by
  unfold Clocked
  intro st h o k
  refine ⟨_, rfl, ?_⟩
  simp only [List.mem_cons, List.not_mem_nil, or_false] at h k
  rcases h with h | h | h <;> rcases k with k | k <;> subst h <;> subst k <;> decide

/-- The frame that completes a recovery, from LOST with NO_AXLE live and from STARTING: the Slip Monitor takes it with the link
SYNCED, and judges it in each of its states. -/
theorem witness_RecoveryIsJudged :
    ∀ st ∈ [LinkState.starting, .lost], ∀ m ∈ [SmState.idle, .grip, .slip, .recover],
      ∃ s, s = ((((inOc .armed (ready st)).setLink .front
            { AxleLink.reset with state := st, timer := some 5, recovery := 1 }).setDi
              { DemandIntake.reset with refSpeed := 500, refSpeedKnown := true }).setSm .front
            ⟨m, 1, some .drive, 2, some 1100, true⟩).setOut ⟨true, true, true⟩
        ∧ Clocked s ∧ (s.link.get .front).partialBytes = [] ∧ (s.link.get .front).state = st
        ∧ s.hp.params.linkRecoverFrames ≤ (s.link.get .front).recovery + 1 ∧ s.oc.state = .armed
        ∧ s.di.refSpeedKnown = true ∧ (s.sm.get .front).monitored ≠ 0 ∧ (s.sm.get .front).counting = some .drive
        ∧ (s.pt.slots.get s.pt.active).profile = some slot0Profile ∧ s.out.noAxleLive = true
        ∧ (s.sm.get .front).state = m := by
  unfold Clocked
  intro st h m k
  refine ⟨_, rfl, ?_⟩
  simp only [List.mem_cons, List.not_mem_nil, or_false] at h k
  rcases h with h | h <;> rcases k with k | k | k | k <;> subst h <;> subst k <;> decide

/-- The frame after a recovery meets a Slip Monitor one excess short of SLIP: it enters SLIP at that frame. -/
theorem test_recoveryFrameEntersSlip :
    after (exec (.statusFrameAccepted .front (statusFrame 575).bytes)
        ((((inOc .armed (ready .lost)).setLink .front
          { AxleLink.reset with state := .lost, timer := some 5, recovery := 1 }).setDi
            { DemandIntake.reset with refSpeed := 500, refSpeedKnown := true }).setSm .front
          ⟨.grip, 1, some .drive, 2, none, false⟩))
      (fun t => decide (t.sm.front.state = .slip) && decide (t.link.front.state = .synced)
        && decide (faultRecord .slipF t = ⟨true, false, true, true, 1⟩)) = true := by
  decide +kernel

/-- The record of TRACK_F before the posts: absent, and held present by test; and a slot that stands. -/
theorem witness_TrackTaken :
    (∀ r ∈ [absentAt 254, heldByTest],
        ∃ s, s = before .trackF r (asked .capWithdrawSource [3#8] (((inOc .armed (ready .synced)).setLink .front
              { AxleLink.reset with state := .synced, ring := [⟨0#8, -900, true, 4⟩] }).setTm .front ⟨7⟩))
          ∧ Clocked s ∧ (∀ z d, s.ct.slots.get .track z d = none)
          ∧ Handed .capWithdrawSource (frame .capWithdrawSource [3#8]) s
          ∧ ((faultRecord .trackF s).present = false ∨ (faultRecord .trackF s).test = true)
          ∧ after (exec (.statusFrameAccepted .front (statusFrame 0).bytes [(.track, .capWithdrawSource)]) s) (fun t =>
              decide (faultRecord .trackF t = { r with live := true, latched := !r.test, count := if r.test then 7 else 255 }))
            = true)
      ∧ (∃ s, s = setSlot .track .front .regen (some ⟨0, 0⟩) (ready .synced)
        ∧ (∃ d, (s.ct.slots.get .track .front d).isSome = true) ∧ ∀ d, s.ct.slots.get .track .rear d = none) := by
  unfold Clocked Handed
  refine ⟨fun r h => ⟨_, rfl, ?_, fun z d => by cases z <;> cases d <;> rfl, ?_⟩,
    ⟨_, rfl, ⟨.regen, by decide⟩, fun d => by cases d <;> rfl⟩⟩ <;>
  · simp only [List.mem_cons, List.not_mem_nil, or_false] at h
    rcases h with h | h <;> subst h <;> decide +kernel

/-- No SYNC is pending at the end of a period. -/
theorem witness_NoSyncPending :
    ∃ s, s = standing (work 11) (ready .synced) ∧ Standing 11 (work 11) s ∧ s.hp.pendingSync = none := by
  unfold Standing Clocked
  exact ⟨_, rfl, by decide⟩

/-! ### Witnesses of the invariants -/

/-- READY after SETUP with the LINK entries posted and a command waiting: every property that a step keeps holds in it, and a
step is taken from it. -/
theorem witness_StepKeeps :
    ∃ s, s = { setSlot .link .front .drive (some ⟨0, 0⟩) (setSlot .link .front .regen (some ⟨0, 0⟩)
          (setSlot .link .rear .drive (some ⟨0, 0⟩) (setSlot .link .rear .regen (some ⟨0, 0⟩)
            (updateAttn (ready .starting))))) with pending := [.periodExpiry .report] }
      ∧ EnablesFollowArmed s ∧ WindowOnlyInArming s ∧ ForcingHoldsTripped s ∧ AttnFollowsFaults s
      ∧ LinkEntriesFollowState s ∧ OutRecordFollowsLinks s ∧ SlipFollowsState s ∧ SlipEntriesFollowMonitors s
      ∧ StandbyHoldsResetValues s
      ∧ TimerRunsInReady s ∧ OperationHasClock s ∧ FaultsFollowConditions s ∧ QueuesBounded s ∧ PoolKeysDistinct s ∧ SharesInRange s
      ∧ s.hp.part = .ready ∧ after (step s) (fun t => decide (t.se.periodNumber = 1)) = true := by
  refine ⟨_, rfl, by unfold EnablesFollowArmed; decide, fun _ => by decide, fun _ h => ?_, ?_, fun x d => ?_,
    by unfold OutRecordFollowsLinks; decide, fun x => ?_,
    ⟨fun x d => by cases x <;> cases d <;> rfl, fun x cap h => by cases x <;> cases h⟩, fun h => (by cases h), (by unfold TimerRunsInReady; decide), fun h => (by cases h),
    ⟨by decide, fun x => ?_, fun x => ?_, by decide, fun x => ?_, fun x => ?_, by decide⟩,
    (by unfold QueuesBounded; decide), List.Pairwise.nil, shares_of_ready .starting, by decide, by decide⟩
  · obtain ⟨c, h1, h2⟩ := h
    cases c <;> simp [FaultCode.forcing] at h1 <;> exact absurd h2 (by decide)
  · constructor
    · intro h; exact absurd h (by decide)
    · rintro (h | ⟨c, h, -⟩)
      · cases h
      · cases c <;> exact absurd h (by decide)
  · cases x <;> cases d <;> exact ⟨rfl, rfl⟩
  all_goals cases x <;> decide

end Sys2Proof.Tests
end

section
/-! SUPPORT. The period timer runs exactly in READY: kept by every primitive operation (R2). -/

namespace Sys2Proof.Machine

/-- What changes neither the Split Engine nor the part state. -/
theorem TimerRunsInReady.of_only {ps : List Part} {s t : State} (i : TimerRunsInReady s) (h : OnlyChanges ps s t)
    (n : Part.se ∉ ps ∧ Part.part ∉ ps := by simp [smParts, tripParts]) : TimerRunsInReady t := by
  unfold TimerRunsInReady at i ⊢
  rw [h.se_eq n.1, h.part_eq n.2, i]

/-- Stage 11 counts the run and sets the condition, and changes nothing else at the Split Engine (R18, R19). -/
theorem stageMonitor_se (w : PeriodWork) (s : State) {run : Nat}
    (h : run = if w.shortfallThreshold < w.shortfall.natAbs then satInc 65535 s.se.shortfallRun else 0) :
    (stageMonitor w s).2.se = { s.se with shortfallRun := run, shortfallLive := decide (w.shortfallCount ≤ run) } := by
  subst h
  unfold stageMonitor
  dsimp only
  generalize (if w.shortfallThreshold < w.shortfall.natAbs then satInc 65535 s.se.shortfallRun else 0) = run
  split
  · rfl
  · rw [signalReporting_se]; rfl

theorem stageMonitor_part (w : PeriodWork) (s : State) : (stageMonitor w s).2.hp.part = s.hp.part :=
  (stageMonitor_only w s).part_eq (by simp)

theorem timer_keptBetween : KeptBetween TimerRunsInReady where
  frame h i := by
    have hse := h .se (by simp [coreParts])
    have hpart := h .part (by simp [coreParts])
    simp only [Part.same] at hse hpart
    unfold TimerRunsInReady at i ⊢
    rw [hse, hpart, i]
  se s v _ ht i := ht.trans i
  periodTake s i := i.of_only (setPt_only s _)
  stale s i := i.of_only (signalStale_only s)
  smDirection s x z i := i.of_only (smDirection_only x z s)
  notice s n i := i.of_only (demandNotice_only n s)
  shortfall s w i := by
    unfold TimerRunsInReady at i ⊢
    rw [stageMonitor_se w s rfl, stageMonitor_part]
    exact i
  trip s c i := i.of_only (trip_only c s)
  arm s _ i := i.of_only (startArming_only s)
  trackWithdraw s x d i := i.of_only (withdrawInternal_only _ x d s)

/-- A full signal with anything taken before its forcing notice (R143). -/
theorem signal_keeps_timer (c : FaultCode) (ch : FaultChange) (gs : List (ClaimGap × Meanwhile)) {s : State}
    (i : TimerRunsInReady s) : TimerRunsInReady (signal c ch s (gaps gs)) := by
  have taken : TimerRunsInReady (takeAtRecord c ch s) := i.of_only (takeAtRecord_only c ch s)
  unfold signal
  dsimp only
  refine TimerRunsInReady.of_only ?_ (actOutward_only _ _ _)
  split
  · exact timer_keptBetween.trip _ _ (timer_keptBetween.gaps gs _ taken)
  · exact taken

theorem moveLink_keeps_timer (x : Axle) (new : LinkState) (gs : List (ClaimGap × Meanwhile)) {s : State} (i : TimerRunsInReady s) :
    TimerRunsInReady (moveLink x new s (gaps gs)) := by
  have post {t : State} (d : Direction) (j : TimerRunsInReady t) : TimerRunsInReady (postInternal .link x d 0 t) :=
    j.of_only (postInternal_only _ _ _ _ _)
  have withdraw {t : State} (d : Direction) (j : TimerRunsInReady t) : TimerRunsInReady (withdrawInternal .link x d t) :=
    j.of_only (withdrawInternal_only _ _ _ _)
  have gap {t : State} (g : ClaimGap) (j : TimerRunsInReady t) : TimerRunsInReady (gaps gs g t) :=
    timer_keptBetween.gaps gs g j
  refine moveLink_keeps (P := TimerRunsInReady) x new s i (fun _ j => post _ (gap _ (post _ (gap _ j))))
    (fun _ j => withdraw _ (gap _ (withdraw _ (gap _ j))))
    (fun _ _ _ j => j.of_only (signalReporting_only _ _ _)) (fun b u j => ?_)
    (fun _ j => j.of_only (linkLeftSynced_only _))
  unfold outClaim
  dsimp only
  split
  · exact j
  · exact signal_keeps_timer _ _ gs j

/-- READY entry starts the period timer (R2, R163). -/
theorem readyEntry_only (s : State) :
    OnlyChanges ([.sync .front, .linkState .front, .line .front, .seq .front, .service .front, .notices .front, .rx .front,
      .record .front, .counters .front, .sync .rear, .linkState .rear, .line .rear, .seq .rear, .service .rear,
      .notices .rear, .rx .rear, .record .rear, .counters .rear, .out, .hostLink] ++ tripParts)
      (blocksReadyEntry s) (readyEntry s) := by
  have link (x : Axle) (t : State) : OnlyChanges ([.sync x, .linkState x, .line x, .seq x, .service x, .notices x, .rx x,
      .record x, .counters x, .out] ++ tripParts) t (linkReadyEntry x t) := by
    refine .trans ?_ ((moveLink_only _ _ _).mono (by simp [tripParts]))
    apply setLink_only <;> simp
  have check (t : State) : OnlyChanges tripParts t (readyCheck t) := by
    unfold readyCheck
    split
    · exact trip_only _ _
    · exact .refl _ _
  unfold readyEntry
  refine .trans (.trans (.trans (.trans ((link .front _).mono ?_) ((link .rear _).mono ?_)) ((check _).mono ?_))
    ((updateAttn_only _).mono ?_)) ((evaluateHostLink_only _).mono ?_) <;> simp [tripParts]

theorem readyEntry_se (s : State) : (readyEntry s).se = { SplitEngine.reset with timerRunning := true } :=
  (readyEntry_only s).se_eq (by simp [tripParts])

theorem readyEntry_part (s : State) : (readyEntry s).hp.part = s.hp.part :=
  (readyEntry_only s).part_eq (by simp [tripParts])

theorem timer_kept : Kept (fun _ => True) TimerRunsInReady where
  toKeptBetween := timer_keptBetween
  premise _ _ := trivial
  tb s v _ i := i.of_only (setTb_only s v)
  select s n p _ i := i.of_only (setPt_only s _)
  write s n p _ _ _ i := i.of_only (setPt_only s _)
  capFull s i := i.of_only (signalReporting_only _ _ s)
  noticeLost s i := i.of_only (signalReporting_only _ _ s)
  hostLink s i := i.of_only (evaluateHostLink_only s)
  inverter s x d n i := i.of_only (postInternal_only _ x d n s)
  trackPost s x d i := i.of_only (postInternal_only _ x d 0 s)
  smFrame s x f st i := i.of_only (smFrame_only x f st s)
  timebase s b gs i := signal_keeps_timer _ _ gs (i.of_only (setTb_only s _))
  test s set c i := i.of_only (testFault_only set s c)
  faultRead s z i := i.of_only ((setFu_only s _).trans ((updateAttn_only _).mono (by simp)))
  mask s set i := i.of_only ((setFu_only s _).trans ((updateAttn_only _).mono (by simp)))
  disarm s i := i.of_only (disarmFrom_only s)
  clear s _ _ i := i.of_only (setOc_only s _)
  window s i := i.of_only (armWindowExpires_only s)
  countdown s i := i.of_only (setOc_only s _)
  move s x new gs i := moveLink_keeps_timer x new gs i
  ready s p _ _ _ := by unfold TimerRunsInReady; rw [readyEntry_se, readyEntry_part]; rfl
  reset s c := rfl

/-- Every step keeps the period timer running exactly in READY (R2). -/
theorem step_keeps_timer {s t : State} (i : TimerRunsInReady s) (e : step s = .next t) : TimerRunsInReady t :=
  timer_kept.step trivial i e

end Sys2Proof.Machine
end

section
/-! SUPPORT. What a command in operation leaves: the part state, whether REFCLK is present, and, while it is absent, the period
operation (R25, R153, R166). -/

namespace Sys2Proof.Machine

/-- What HP does with the request at the head of its queue: nothing, a refusal, or a hand-over to the owner (R158). -/
theorem takeRequest_cases {P : State → Prop} (k : RequestKind) (owner : HostFrame → State → State) (s : State) (idle : P s)
    (refused : ∀ f r p, P (reply f r p (popRequest s)))
    (handed : k.refusedByState s.hp.part = false → ∀ f, P (owner f (popRequest s))) : P (takeRequest k owner s) := by
  unfold takeRequest
  split
  · exact idle
  · split
    · unfold dispatch
      split
      · exact refused _ _ _
      · split
        · exact refused _ _ _
        · exact handed (Bool.eq_false_iff.2 ‹¬_›) _
    · exact idle

/-- From `s` to `t` the part state and REFCLK stand, and while REFCLK is absent so does the period operation. -/
structure RunsOn (s t : State) : Prop where
  part : t.hp.part = s.hp.part
  refclk : t.tb.refclk = s.tb.refclk
  work : s.tb.refclk = false → t.se.work = s.se.work

namespace RunsOn

theorem refl (s : State) : RunsOn s s := ⟨rfl, rfl, fun _ => rfl⟩

theorem trans {s t u : State} (h : RunsOn s t) (k : RunsOn t u) : RunsOn s u :=
  ⟨k.part.trans h.part, k.refclk.trans h.refclk, fun c => (k.work (h.refclk.trans c)).trans (h.work c)⟩

theorem ite {s t u : State} {c : Prop} [Decidable c] (h : c → RunsOn s t) (k : ¬c → RunsOn s u) :
    RunsOn s (if c then t else u) := by
  split
  · exact h ‹_›
  · exact k ‹_›

/-- What changes neither the Split Engine nor the Timebase nor the part state. -/
theorem of_only {ps : List Part} {s t : State} (h : OnlyChanges ps s t)
    (n : ∀ p ∈ [Part.se, .tb, .part], p ∉ ps := by simp [rxParts, tripParts]) : RunsOn s t :=
  ⟨h.part_eq (n _ (by simp)), by rw [h.tb_eq (n _ (by simp))], fun _ => by rw [h.se_eq (n _ (by simp))]⟩

/-- What may change the Split Engine, and does nothing while REFCLK is absent. -/
theorem of_clocked {ps : List Part} {s t : State} (h : OnlyChanges ps s t) (stopped : s.tb.refclk = false → t = s)
    (n : ∀ p ∈ [Part.tb, .part], p ∉ ps := by simp [claimParts, betweenParts, periodParts, tripParts]) : RunsOn s t :=
  ⟨h.part_eq (n _ (by simp)), by rw [h.tb_eq (n _ (by simp))], fun c => by rw [stopped c]⟩

theorem setTb (s : State) (v : Timebase) (h : v.refclk = s.tb.refclk) : RunsOn s (s.setTb v) := ⟨rfl, h, fun _ => rfl⟩

/-- A request whose owner changes neither the Split Engine nor the Timebase nor the part state. -/
theorem request {ps : List Part} (k : RequestKind) (owner : HostFrame → State → State) (s : State)
    (h : ∀ f t, OnlyChanges ps t (owner f t)) (n : ∀ p ∈ [Part.se, .tb, .part], p ∉ ps := by simp [tripParts]) :
    RunsOn s (takeRequest k owner s) := by
  refine of_only (ps := .tx :: .requests :: ps) (takeRequest_only k owner s (by simp) (by simp) fun f t => ?_)
    (by simpa using n)
  exact (h f t).mono fun _ q => .tail _ (.tail _ q)

end RunsOn

/-! ### While REFCLK is absent -/

theorem periodExpiry_stopped (through : Stage) (slip : SlipOrder) {s : State} (c : s.tb.refclk = false) :
    periodExpiry through s slip = s := by simp [periodExpiry, c]

theorem receiveBytes_stopped (x : Axle) (bytes : List Byte) (g : Gaps) {s : State} (c : s.tb.refclk = false) :
    receiveBytes x bytes s g = s := by simp [receiveBytes, c]

theorem lineLow_stopped (x : Axle) (g : Gaps) {s : State} (c : s.tb.refclk = false) : lineLow x s g = s := by
  simp [lineLow, c]

/-! ### The events that can change the Split Engine or the Timebase -/

theorem periodExpiry_runsOn (through : Stage) (slip : SlipOrder) (s : State) : RunsOn s (periodExpiry through s slip) :=
  .of_clocked (periodExpiry_only through s slip) (periodExpiry_stopped through slip)

theorem runMeanwhile_runsOn (gap : ClaimGap) (m : Meanwhile) (s : State) : RunsOn s (runMeanwhile gap m s) := by
  cases m with
  | period through slip => exact periodExpiry_runsOn _ _ s
  | arm => exact .request _ _ s ownerArm_only
  | capWithdrawSource => exact .request _ _ s ownerCapWithdrawSource_only
  | capList => exact .request _ _ s ownerCapList_only

theorem gaps_runsOn (gs : List (ClaimGap × Meanwhile)) (gap : ClaimGap) (s : State) : RunsOn s (gaps gs gap s) := by
  unfold gaps
  induction gs generalizing s with
  | nil => exact .refl s
  | cons e rest ih => exact (RunsOn.ite (fun _ => runMeanwhile_runsOn gap e.2 s) fun _ => .refl s).trans (ih _)

/-- A full signal with anything taken before its forcing notice (R143). -/
theorem signal_runsOn (c : FaultCode) (ch : FaultChange) (gs : List (ClaimGap × Meanwhile)) (s : State) :
    RunsOn s (signal c ch s (gaps gs)) := by
  have taken : RunsOn s (takeAtRecord c ch s) := .of_only (takeAtRecord_only c ch s)
  have tripped (t : State) : RunsOn t (trip (.fault c) t) :=
    .of_only (trip_only _ t)
  unfold signal
  dsimp only
  refine .trans (t := if givesForcingNotice c (faultRecord c s) ch = true then
    trip (.fault c) (gaps gs .forcing (takeAtRecord c ch s)) else takeAtRecord c ch s) ?_
    (.of_only (actOutward_only _ _ _))
  exact .ite (fun _ => (taken.trans (gaps_runsOn gs _ _)).trans (tripped _)) fun _ => taken

theorem setTimebase_runsOn (b : Bool) (gs : List (ClaimGap × Meanwhile)) (s : State) :
    RunsOn s (setTimebase b s (gaps gs)) :=
  (RunsOn.setTb s { s.tb with timebaseLive := b } rfl).trans (signal_runsOn _ _ gs _)

theorem judgeWindow_runsOn (n : Nat) (gs : List (ClaimGap × Meanwhile)) (s : State) :
    RunsOn s (judgeWindow n s (gaps gs)) := by
  have counted (v : Timebase) (h : v.refclk = s.tb.refclk) (c : Prop) [Decidable c] (b : Bool) :
      RunsOn s (if c then setTimebase b (s.setTb v) (gaps gs) else s.setTb v) :=
    .ite (fun _ => (RunsOn.setTb s v h).trans (setTimebase_runsOn b gs _)) fun _ => .setTb s v h
  unfold judgeWindow
  dsimp only
  refine .ite (fun _ => counted _ ?_ _ _) fun _ => counted _ ?_ _ _ <;> rfl

theorem linkTimerExpires_runsOn (x : Axle) (s : State) : RunsOn s (linkTimerExpires x s) :=
  .of_only (linkTimerExpires_only x s)

theorem receiveBad_only (x : Axle) (bytes : List Byte) (framingError : Bool) (s : State) :
    OnlyChanges (rxParts x) s (receiveBad x bytes framingError s) :=
  .ite (fun _ => (receiveBytes_only x bytes s).trans (framingErrorAt_only x _)) fun _ => receiveBytes_only x bytes s

theorem takeOwnerEvent_runsOn (e : OwnerEvent) (s : State) : RunsOn s (takeOwnerEvent e s) := by
  have op {effect : State → State} (h : RunsOn s (effect s)) : RunsOn s (stateAfter (inOperation effect s) s) := by
    rw [stateAfter_inOperation]
    exact .ite (fun _ => .refl s) fun _ => h
  unfold takeOwnerEvent
  cases e with
  | period through slip => exact op (effect := fun s => periodExpiry through s slip) (periodExpiry_runsOn _ _ s)
  | armWindow =>
    exact op (.ite (fun _ => .of_only (armWindowExpires_only s)) fun _ => .refl s)
  | linkTimer x => exact op (.ite (fun _ => linkTimerExpires_runsOn x s) fun _ => .refl s)
  | statusFrame x bytes => exact op (.of_only (receiveBytes_only x bytes s))
  | badFrame x bytes framingError => exact op (.of_only (receiveBad_only x bytes framingError s))
  | gapCut x => exact op (.ite (fun _ => .of_only (gapCutAt_only x s)) fun _ => .refl s)
  | lineLow x => exact op (.of_only (lineLow_only x s))
  | lineHigh x => exact op (.of_only (lineHigh_only x s))
  | windowEnd edges => exact op (effect := fun s => judgeWindow edges s (gaps [])) (judgeWindow_runsOn edges [] s)

theorem afterLooks_runsOn (during : List (List StatusItem × OwnerEvent)) (s : State) : RunsOn s (afterLooks during s) := by
  induction during generalizing s with
  | nil => exact .refl s
  | cons e rest ih => exact (takeOwnerEvent_runsOn e.2 s).trans (ih _)

theorem takeStatus_runsOn (during : List (List StatusItem × OwnerEvent)) (s : State) :
    RunsOn s (takeRequest .status (ownerStatus during) s) := by
  have popped : RunsOn s (popRequest s) := .of_only (popRequest_only s)
  have answer (f : HostFrame) (r : ResultCode) (p : List Byte) (t : State) : RunsOn t (reply f r p t) :=
    .of_only (reply_only f r p t)
  exact takeRequest_cases _ _ s (.refl s) (fun _ _ _ => popped.trans (answer _ _ _ _)) fun _ _ =>
    (popped.trans (afterLooks_runsOn during _)).trans (answer _ _ _ _)

/-! ### The completion of a command frame -/

theorem takeDueTrip_only (s : State) : OnlyChanges periodParts s (takeDueTrip s) := by
  unfold takeDueTrip
  split
  · exact (takeStaleTrip_only _ _ _).trans ((setSe_only _ _).mono (by simp [periodParts]))
  · exact .refl _ _

/-- The trip that meets a completion: REFCLK is present (R108). -/
theorem takeTripEvent_runsOn (e : TripEvent) {s : State} (c : s.tb.refclk = true) : RunsOn s (takeTripEvent e s) := by
  unfold takeTripEvent
  cases e with
  | torqueOff => exact .request _ _ s ownerTorqueOff_only
  | faultTest => exact .request _ _ s ownerFaultTest_only
  | period through slip =>
    exact .of_clocked ((periodExpiry_only _ s slip).trans (takeDueTrip_only _)) fun stopped => by simp [c] at stopped
  | linkTimer x => exact .ite (fun _ => linkTimerExpires_runsOn x s) fun _ => .refl s
  | lineLow x => exact .of_only (lineLow_only x s)
  | windowEnd edges => exact judgeWindow_runsOn edges [] s

theorem completesFirst_runsOn (x : Axle) {event : State → State}
    (h : ∀ u : State, u.tb.refclk = true → RunsOn u (event u)) {s : State} (c : s.tb.refclk = true) :
    RunsOn s (completesFirst x event s) := by
  have free : RunsOn s (freeLine x s) := .of_only (freeLine_only x s)
  have started : RunsOn s (startWaiting x (freeLine x s)) := free.trans (.of_only (startWaiting_only x _))
  unfold completesFirst
  refine .ite (fun _ => ?_) fun _ => h s c
  exact .ite (fun _ => free.trans (h _ (free.refclk.trans c))) fun _ => started.trans (h _ (started.refclk.trans c))

theorem frameEnds_runsOn (x : Axle) (met : Option MetTrip) (s : State) : RunsOn s (frameEnds x met s) := by
  have plain : RunsOn s (frameCompletes x s) := .of_only (frameCompletes_only x s)
  unfold frameEnds meetTrip
  split
  · refine .ite (fun hc => completesFirst_runsOn x (fun u c => ?_) (by simp at hc; exact hc.1)) fun _ => plain
    split
    · exact completesFirst_runsOn _ (fun v => takeTripEvent_runsOn _) c
    · exact takeTripEvent_runsOn _ c
  · exact plain

/-! ### Commands -/

/-- The commands that set the part state or REFCLK: the resets that act on the blocks, SETUP, and the stop and return of REFCLK. -/
def setsMode : Instr → Bool
  | .powerUp | .pinReset | .softwareReset | .setup | .refclkStops _ | .refclkReturns => true
  | _ => false

/-- Every other command leaves the part state and REFCLK, and the period operation while REFCLK is absent. -/
theorem exec_runsOn {c : Instr} (n : setsMode c = false) {s t : State} (e : exec c s = .next t) : RunsOn s t := by
  have op {effect : State → State} (h : RunsOn s (effect s)) (e : inOperation effect s = .next t) : RunsOn s t := by
    cases e
    exact .ite (fun _ => .refl s) fun _ => h
  have guarded {c : Prop} [Decidable c] {u : State} (h : RunsOn s u) : RunsOn s (if c then u else s) :=
    .ite (fun _ => h) fun _ => .refl s
  cases c with
  | powerUp | pinReset | softwareReset | setup | refclkStops | refclkReturns => cases n
  | resetnRelease => cases e; exact .of_only (setResetnLow_only s false)
  | hostFrameReceived bytes => exact op (.of_only (hostBytes_only bytes s)) e
  | hostGapTimeout => exact op (guarded (.of_only (badHostFrame_only s))) e
  | hostFrameSent => exact op (.of_only (hostFrameSent_only s)) e
  | reset => exact op (.request _ _ s ownerReset_only) e
  | status during => exact op (takeStatus_runsOn during s) e
  | paramSet => exact op (.request _ _ s ownerParamSet_only) e
  | paramGet => exact op (.request _ _ s ownerParamGet_only) e
  | sync => exact op (.request _ _ s ownerSync_only) e
  | kindUnknown => exact op (.of_only (takeUnknown_only s)) e
  | demand => exact op (.request _ _ s ownerDemand_only) e
  | capPost => exact op (.request _ _ s ownerCapPost_only) e
  | capWithdraw => exact op (.request _ _ s ownerCapWithdraw_only) e
  | capWithdrawSource => exact op (.request _ _ s ownerCapWithdrawSource_only) e
  | capList => exact op (.request _ _ s ownerCapList_only) e
  | profileWrite => exact op (.request _ _ s ownerProfileWrite_only) e
  | profileCheck => exact op (.request _ _ s ownerProfileCheck_only) e
  | profileRead => exact op (.request _ _ s ownerProfileRead_only) e
  | profileSelect => exact op (.request _ _ s ownerProfileSelect_only) e
  | linkQuery => exact op (.request _ _ s ownerLinkQuery_only) e
  | linkPost => exact op (.request _ _ s ownerLinkPost_only) e
  | arm => exact op (.request _ _ s ownerArm_only) e
  | disarm => exact op (.request _ _ s ownerDisarm_only) e
  | torqueOff => exact op (.request _ _ s ownerTorqueOff_only) e
  | clearTrip => exact op (.request _ _ s ownerClearTrip_only) e
  | faultRead => exact op (.request _ _ s ownerFaultRead_only) e
  | faultMask => exact op (.request _ _ s ownerFaultMask_only) e
  | faultTest => exact op (.request _ _ s ownerFaultTest_only) e
  | periodExpiry through slip => exact op (effect := fun s => periodExpiry through s slip) (periodExpiry_runsOn _ _ s) e
  | hostEntryExpiry src x d => exact op (guarded (.of_only (hostEntryExpires_only src x d s))) e
  | armWindowExpiry => exact op (guarded (.of_only (armWindowExpires_only s))) e
  | linkTimerExpiry x gs =>
    exact op (.of_clocked (.ite (fun _ => linkTimerExpires_gaps_only gs x s) fun _ => .refl _ _)
      fun stopped => by simp [msTimerRuns, stopped]) e
  | commandFrameComplete x met => exact op (frameEnds_runsOn x met s) e
  | breakEnd x => exact op (.of_only (breakEnds_only x s)) e
  | statusFrameAccepted x bytes gs =>
    exact op (effect := fun s => receiveBytes x bytes s (gaps gs))
      (.of_clocked (receiveBytes_gaps_only gs x bytes s) (receiveBytes_stopped x bytes _)) e
  | statusFrameBad x bytes framingError => exact op (.of_only (receiveBad_only x bytes framingError s)) e
  | receiveGapCut x => exact op (guarded (.of_only (gapCutAt_only x s))) e
  | lineLow90us x gs =>
    exact op (effect := fun s => lineLow x s (gaps gs))
      (.of_clocked (lineLow_gaps_only gs x s) (lineLow_stopped x _)) e
  | receiveLineHigh x => exact op (.of_only (lineHigh_only x s)) e
  | clockCheckWindowEnd edges gs =>
    exact op (effect := fun s => judgeWindow edges s (gaps gs)) (judgeWindow_runsOn edges gs s) e

/-! ### The 1 ms timer -/

theorem expireDue_runsOn (s : State) (timer : TickTimer) : RunsOn s (expireDue s timer) := by
  unfold expireDue
  refine .ite (fun _ => ?_) fun _ => .refl s
  cases timer with
  | armWindow => exact .of_only (armWindowExpires_only s)
  | linkFront => exact linkTimerExpires_runsOn .front s
  | linkRear => exact linkTimerExpires_runsOn .rear s

theorem msTick_runsOn (s : State) : RunsOn s (msTick s) := by
  have all (timers : List TickTimer) (t : State) : RunsOn t (timers.foldl expireDue t) := by
    induction timers generalizing t with
    | nil => exact .refl t
    | cons timer rest ih => exact (expireDue_runsOn t timer).trans (ih _)
  have counted : RunsOn s (countAllDown s) := ⟨rfl, rfl, fun _ => rfl⟩
  have drawn (t : State) : RunsOn t (drawFree t) := .of_only (setFreeIndex_only t _)
  refine .ite (fun _ => .refl s) fun _ => counted.trans ?_
  exact .ite (fun _ => all _ _) fun _ => (drawn _).trans (all _ _)

end Sys2Proof.Machine
end

section
/-! SUPPORT. STANDBY: the blocks that hold their reset values there, and that every command but SETUP leaves them so (R1, R27,
R61, R63, R85, R98, R104, R111, R120, R127, R153). -/

namespace Sys2Proof.Machine

/-- The part is in STANDBY, and every block but the Fault Unit, the Timebase and the host port's queues, framer and counters holds
its reset values. -/
structure InStandby (s : State) : Prop where
  part : s.hp.part = .standby
  se : s.se = SplitEngine.reset
  di : s.di = DemandIntake.reset
  ct : s.ct = CapTable.reset
  pt : s.pt = ProfileTable.reset
  sm : ∀ x, s.sm.get x = SlipMonitor.reset
  tm : ∀ x, s.tm.get x = TrackingMonitor.reset
  link : ∀ x, s.link.get x = { AxleLink.reset with tail := (s.link.get x).tail }
  out : s.out = OutRecord.reset
  oc : s.oc = OutputControl.reset
  params : s.hp.params = Params.reset
  sync : s.hp.pendingSync = none
  hostLink : s.hp.hostLinkLive = false

theorem ByAxle.ext_get {α : Type} {p : ByAxle α} {v : α} (h : ∀ x, p.get x = v) : p = ⟨v, v⟩ := by
  obtain ⟨f, r⟩ := p
  have hf := h .front
  have hr := h .rear
  simp only [ByAxle.get_front, ByAxle.get_rear] at hf hr
  rw [hf, hr]

theorem standbyHoldsResetValues_iff (s : State) :
    StandbyHoldsResetValues s ↔ (s.hp.part = .standby → InStandby s) := by
  refine forall_congr' fun part => ⟨?_, fun i => ?_⟩
  · rintro ⟨se, di, ct, pt, sm, tm, front, rear, out, oc, params, sync, hostLink⟩
    exact ⟨part, se, di, ct, pt, fun x => by rw [sm]; cases x <;> rfl, fun x => by rw [tm]; cases x <;> rfl,
      fun x => match x with | .front => front | .rear => rear, out, oc, params, sync, hostLink⟩
  · exact ⟨i.se, i.di, i.ct, i.pt, ByAxle.ext_get i.sm, ByAxle.ext_get i.tm, i.link .front, i.link .rear, i.out, i.oc,
      i.params, i.sync, i.hostLink⟩

/-- The parts a link is made of. -/
def linkParts (x : Axle) : List Part :=
  [.line x, .seq x, .service x, .notices x, .rx x, .linkState x, .sync x, .record x, .counters x]

theorem OnlyChanges.link_eq {ps : List Part} {s t : State} (h : OnlyChanges ps s t) (x : Axle)
    (n : ∀ p ∈ linkParts x, p ∉ ps) : t.link.get x = s.link.get x := by
  obtain ⟨h1, h2, h3, h4, h5⟩ := h (.line x) (n _ (by simp [linkParts]))
  obtain ⟨h6, h7, h8⟩ := h (.seq x) (n _ (by simp [linkParts]))
  have h9 : (t.link.get x).service = (s.link.get x).service := h (.service x) (n _ (by simp [linkParts]))
  obtain ⟨h10, h11, h12⟩ := h (.notices x) (n _ (by simp [linkParts]))
  obtain ⟨h13, h14, h15⟩ := h (.rx x) (n _ (by simp [linkParts]))
  have h16 : (t.link.get x).state = (s.link.get x).state := h (.linkState x) (n _ (by simp [linkParts]))
  obtain ⟨h17, h18, h19⟩ := h (.sync x) (n _ (by simp [linkParts]))
  obtain ⟨h20, h21⟩ := h (.record x) (n _ (by simp [linkParts]))
  have h22 : (t.link.get x).counters = (s.link.get x).counters := h (.counters x) (n _ (by simp [linkParts]))
  generalize t.link.get x = l' at *
  generalize s.link.get x = l at *
  cases l
  cases l'
  simp_all

/-- What STANDBY leaves free to change: the Fault Unit, the Timebase, the host port's queues, framer, counters and reset cause. -/
def standbyParts : List Part :=
  [.fu, .tx, .skips, .requests, .dropped, .framer, .cause, .tb, .resetn, .free, .queue]

namespace InStandby

theorem of_standbyParts {s t : State} (i : InStandby s) (h : OnlyChanges standbyParts s t) : InStandby t where
  part := (h.part_eq (by simp [standbyParts])).trans i.part
  se := (h.se_eq (by simp [standbyParts])).trans i.se
  di := (h.di_eq (by simp [standbyParts])).trans i.di
  ct := by
    have slots := h.slots_eq (by simp [standbyParts])
    have pool := h.pool_eq (by simp [standbyParts])
    rw [← i.ct]
    cases hs : s.ct
    cases ht : t.ct
    simp_all
  pt := (h.pt_eq (by simp [standbyParts])).trans i.pt
  sm x := (h.sm_eq x (by simp [standbyParts])).trans (i.sm x)
  tm x := (h.tm_eq x (by simp [standbyParts])).trans (i.tm x)
  link x := by
    rw [h.link_eq x (by simp [linkParts, standbyParts])]
    exact i.link x
  out := (h.out_eq (by simp [standbyParts])).trans i.out
  oc := (h.oc_eq (by simp [standbyParts])).trans i.oc
  params := (h.params_eq (by simp [standbyParts])).trans i.params
  sync := (h.pendingSync_eq (by simp [standbyParts])).trans i.sync
  hostLink := (h .hostLink (by simp [standbyParts]) : t.hp.hostLinkLive = s.hp.hostLinkLive).trans i.hostLink

theorem of_only {ps : List Part} {s t : State} (i : InStandby s) (h : OnlyChanges ps s t)
    (sub : ps ⊆ standbyParts := by simp [standbyParts]) : InStandby t := i.of_standbyParts (h.mono sub)

theorem ite {s t : State} {c : Prop} [Decidable c] (h : c → InStandby s) (k : ¬c → InStandby t) :
    InStandby (if c then s else t) := by
  split
  · exact h ‹_›
  · exact k ‹_›

variable {s : State} (i : InStandby s)
include i

/-- A link that holds its reset values but for what a software reset left on its line (R111). -/
theorem setLink (x : Axle) (v : AxleLink) (h : v = { AxleLink.reset with tail := v.tail }) : InStandby (s.setLink x v) :=
  { i with
    link := fun y => by
      show (s.link.set x v).get y = { AxleLink.reset with tail := ((s.link.set x v).get y).tail }
      rw [ByAxle.get_set]
      split
      · exact h
      · exact i.link y }

theorem setCt {v : CapTable} (h : v = CapTable.reset) : InStandby (s.setCt v) := { i with ct := h }

theorem setOc {v : OutputControl} (h : v = OutputControl.reset) : InStandby (s.setOc v) := { i with oc := h }

theorem linkState (x : Axle) : (s.link.get x).state = .off := by rw [i.link x]; rfl
theorem inFlight (x : Axle) : (s.link.get x).inFlight = none := by rw [i.link x]; rfl
theorem breakSending (x : Axle) : (s.link.get x).breakSending = false := by rw [i.link x]; rfl
theorem timer (x : Axle) : (s.link.get x).timer = none := by rw [i.link x]; rfl
theorem ocState : s.oc.state = .disarmed := by rw [i.oc]; rfl
theorem work : s.se.work = none := by rw [i.se]; rfl

/-! ### Events that do nothing in STANDBY -/

theorem periodExpiry_eq (through : Stage) (slip : SlipOrder) : periodExpiry through s slip = s := by
  simp [periodExpiry, periodTimerRuns, i.se, SplitEngine.reset]

theorem finishPeriod_eq : finishPeriod s = s := by simp [finishPeriod, i.work]

theorem armWindowExpires_eq : armWindowExpires s = s := by simp [armWindowExpires, i.ocState]

theorem linkTimerExpires_eq (x : Axle) (g : Gaps) : linkTimerExpires x s g = s := by
  simp [linkTimerExpires, i.timer x, runsOut]

theorem receiveByte_eq (x : Axle) (b : Byte) (g : Gaps) : receiveByte x s b g = s := by
  simp [receiveByte, i.linkState x]

theorem receiveBytes_eq (x : Axle) (bytes : List Byte) (g : Gaps) : receiveBytes x bytes s g = s := by
  have all : bytes.foldl (fun s b => receiveByte x s b g) s = s := by
    induction bytes with
    | nil => rfl
    | cons b rest ih => rw [List.foldl_cons, i.receiveByte_eq, ih]
  simp [receiveBytes, all]

theorem framingErrorAt_eq (x : Axle) : framingErrorAt x s = s := by simp [framingErrorAt, i.linkState x]

theorem gapCutAt_eq (x : Axle) : gapCutAt x s = s := by simp [gapCutAt, i.linkState x]

theorem lineLow_eq (x : Axle) (g : Gaps) : lineLow x s g = s := by simp [lineLow, i.linkState x]

theorem receiveBad_eq (x : Axle) (bytes : List Byte) (framingError : Bool) : receiveBad x bytes framingError s = s := by
  simp [receiveBad, i.receiveBytes_eq, i.framingErrorAt_eq]

theorem evaluateHostLink_eq : evaluateHostLink s = s := by simp [evaluateHostLink, i.part, i.hostLink]

/-! ### Events that touch a link's line -/

/-- The tail of a link's line is all that changes on it. -/
theorem setTail (x : Axle) (t : LineTail) : InStandby (s.setLink x { s.link.get x with tail := t }) :=
  i.setLink x _ (by rw [i.link x])

theorem lineHigh (x : Axle) : InStandby (lineHigh x s) := by
  simp only [Machine.lineHigh, i.linkState x, reduceCtorEq, if_false]
  exact i.setLink x _ (by rw [i.link x]; rfl)

theorem breakEnds (x : Axle) : InStandby (breakEnds x s) := by
  simp only [Machine.breakEnds, i.breakSending x, Bool.false_eq_true, if_false]
  unfold tailBreakEnds
  split
  · exact i.setTail x .none
  all_goals exact i.setTail x (s.link.get x).tail

theorem frameEnds (x : Axle) (met : Option MetTrip) : InStandby (frameEnds x met s) := by
  rw [frameEnds_idle (.inr (i.inFlight x))]
  simp only [frameCompletes, i.inFlight x]
  refine .ite (fun _ => ?_) fun _ => i
  unfold tailFrameEnds
  split
  · exact i.setTail x .none
  all_goals exact i.setTail x (s.link.get x).tail

theorem hold (x : Axle) (m : LineMeasures) : InStandby (s.setLink x ((s.link.get x).hold m)) := by
  refine i.setLink x _ ?_
  rw [i.link x]
  simp [AxleLink.hold, AxleLink.reset]

theorem clockStops (m : Measures) : InStandby (clockStops m s) := by
  have held : InStandby ((s.setTb { s.tb with refclk := false }).setSe
      { s.se with timerUs := if s.se.timerRunning then m.periodUs else s.se.timerUs }) :=
    { i with se := by simp [i.se, SplitEngine.reset] }
  unfold Machine.clockStops
  refine .ite (fun _ => ?_) fun _ => i
  rw [i.finishPeriod_eq]
  refine (InStandby.hold ?_ .front m.front).hold .rear m.rear
  exact { held with }

/-! ### The host port's line -/

theorem port (v : HostPort) (h1 : v.part = s.hp.part) (h2 : v.params = s.hp.params) (h3 : v.pendingSync = s.hp.pendingSync)
    (h4 : v.hostLinkLive = s.hp.hostLinkLive) : InStandby (s.setHp v) :=
  { i with part := h1.trans i.part, params := h2.trans i.params, sync := h3.trans i.sync, hostLink := h4.trans i.hostLink }

theorem badHostFrame : InStandby (badHostFrame s) := by
  have j := i.port { s.hp with framer := none, gapUs := 0, badFrames := satInc 65535 s.hp.badFrames } rfl rfl rfl rfl
  rw [Machine.badHostFrame, j.evaluateHostLink_eq]
  exact j

theorem goodHostFrame (f : HostFrame) : InStandby (goodHostFrame f s) := by
  have j := i.port { s.hp with framer := none, gapUs := 0, badFrames := 0 } rfl rfl rfl rfl
  rw [Machine.goodHostFrame, j.evaluateHostLink_eq]
  exact j.of_only (queueRequest_only f _)

theorem hostByte (b : Byte) : InStandby (hostByte s b) := by
  unfold Machine.hostByte
  split
  · exact .ite (fun _ => i.port _ rfl rfl rfl rfl) fun _ => i
  · exact .ite (fun _ => i.badHostFrame) fun _ => i.port _ rfl rfl rfl rfl
  · exact .ite (fun _ => i.port _ rfl rfl rfl rfl) fun _ => .ite (fun _ => i.goodHostFrame _) fun _ => i.badHostFrame

theorem hostBytes (bytes : List Byte) : InStandby (hostBytes bytes s) := by
  have all : InStandby (bytes.foldl Machine.hostByte s) := by
    induction bytes generalizing s with
    | nil => exact i
    | cons b rest ih => exact ih (i.hostByte b)
  exact .ite (fun _ => all) fun _ => i

/-! ### Requests -/

theorem reply (f : HostFrame) (r : ResultCode) (p : List Byte) : InStandby (reply f r p s) :=
  i.of_only (reply_only f r p s)

theorem takeRequest (k : RequestKind) {owner : HostFrame → State → State}
    (h : k.refusedByState .standby = false → ∀ (f : HostFrame) {t : State}, InStandby t → InStandby (owner f t)) :
    InStandby (takeRequest k owner s) := by
  have j : InStandby (popRequest s) := i.of_only (popRequest_only s)
  exact takeRequest_cases k owner s i (fun f r p => j.reply f r p) fun n f => h (by rwa [i.part] at n) f j

/-- A request that the table of R159 refuses in STANDBY. -/
theorem refused {k : RequestKind} (h : k.refusedByState .standby = true) (owner : HostFrame → State → State) :
    InStandby (Machine.takeRequest k owner s) := i.takeRequest k fun n => by simp [h] at n

theorem ownerReset (f : HostFrame) : InStandby (ownerReset f s) := by
  have j : InStandby (Machine.reply f .ok [] (abortSync s)) := by
    simp only [abortSync, i.sync]
    exact i.reply f .ok []
  exact j.port _ rfl rfl rfl rfl

/-! ### The clock check and what is taken between its claims -/

theorem runMeanwhile (gap : ClaimGap) (m : Meanwhile) : InStandby (runMeanwhile gap m s) := by
  cases m with
  | period through slip =>
    show InStandby (periodExpiry _ s slip)
    rw [i.periodExpiry_eq]
    exact i
  | arm => exact i.refused rfl _
  | capWithdrawSource => exact i.refused rfl _
  | capList => exact i.refused rfl _

theorem gaps (gs : List (ClaimGap × Meanwhile)) (gap : ClaimGap) : InStandby (gaps gs gap s) := by
  unfold Machine.gaps
  induction gs generalizing s with
  | nil => exact i
  | cons e rest ih => exact ih (.ite (fun _ => i.runMeanwhile gap e.2) fun _ => i)

theorem setTimebase (b : Bool) (gs : List (ClaimGap × Meanwhile)) : InStandby (setTimebase b s (Machine.gaps gs)) := by
  have marked : InStandby (s.setTb { s.tb with timebaseLive := b }) :=
    i.of_only (setTb_only s _)
  have taken := marked.of_only (takeAtRecord_only .timebase (.live b) _)
  have before := taken.gaps gs .forcing
  unfold Machine.setTimebase signal
  dsimp only
  refine InStandby.of_only ?_ (actOutward_only _ _ _)
  refine .ite (fun _ => ?_) fun _ => taken
  rw [trip_standby before.part]
  exact before

theorem judgeWindow (n : Nat) (gs : List (ClaimGap × Meanwhile)) : InStandby (judgeWindow n s (Machine.gaps gs)) := by
  have tb (v : Timebase) : InStandby (s.setTb v) := i.of_only (setTb_only s v)
  unfold Machine.judgeWindow
  dsimp only
  exact .ite (fun _ => .ite (fun _ => (tb _).setTimebase _ gs) fun _ => tb _)
    fun _ => .ite (fun _ => (tb _).setTimebase _ gs) fun _ => tb _

/-! ### STATUS -/

theorem takeOwnerEvent (e : OwnerEvent) : InStandby (takeOwnerEvent e s) := by
  have op {effect : State → State} (h : InStandby (effect s)) : InStandby (stateAfter (inOperation effect s) s) := by
    rw [stateAfter_inOperation]
    exact .ite (fun _ => i) fun _ => h
  have stays {effect : State → State} (h : effect s = s) : InStandby (stateAfter (inOperation effect s) s) :=
    op (by rw [h]; exact i)
  unfold Machine.takeOwnerEvent
  cases e with
  | period through slip => exact stays (effect := fun s => periodExpiry through s slip) (i.periodExpiry_eq _ _)
  | armWindow => exact stays (by simp [i.armWindowExpires_eq])
  | linkTimer x => exact stays (by simp [i.linkTimerExpires_eq])
  | statusFrame x bytes => exact stays (i.receiveBytes_eq x bytes _)
  | badFrame x bytes framingError => exact stays (i.receiveBad_eq x bytes framingError)
  | gapCut x => exact stays (by simp [i.gapCutAt_eq])
  | lineLow x => exact stays (i.lineLow_eq x _)
  | lineHigh x => exact op (i.lineHigh x)
  | windowEnd edges => exact op (effect := fun s => Machine.judgeWindow edges s (Machine.gaps [])) (i.judgeWindow edges [])

theorem afterLooks (during : List (List StatusItem × OwnerEvent)) : InStandby (afterLooks during s) := by
  induction during generalizing s with
  | nil => exact i
  | cons e rest ih => exact ih (i.takeOwnerEvent e.2)

/-! ### Steps -/

theorem msTick : InStandby (msTick s) := by
  have setTimer {t : State} (j : InStandby t) (x : Axle) :
      InStandby (t.setLink x { t.link.get x with timer := countDown (t.link.get x).timer }) :=
    j.setLink x _ (by rw [j.link x]; rfl)
  have counted : InStandby (countAllDown s) := by
    refine setTimer (setTimer (InStandby.setOc ?_ ?_) .front) .rear
    · exact i.setCt (by rw [i.ct]; rfl)
    · show { s.oc with armWindow := countDown s.oc.armWindow } = OutputControl.reset
      rw [i.oc]; rfl
  have due {t : State} (j : InStandby t) (timer : TickTimer) : expireDue t timer = t := by
    cases timer
    · simp [expireDue, j.armWindowExpires_eq]
    · simp [expireDue, j.linkTimerExpires_eq .front]
    · simp [expireDue, j.linkTimerExpires_eq .rear]
  have all (timers : List TickTimer) {t : State} (j : InStandby t) : timers.foldl expireDue t = t := by
    induction timers with
    | nil => rfl
    | cons timer rest ih => rw [List.foldl_cons, due j, ih]
  have drawn : InStandby (drawFree (countAllDown s)) :=
    counted.of_only (setFreeIndex_only _ _)
  refine .ite (fun _ => i) fun _ => .ite (fun _ => ?_) fun _ => ?_
  · rw [all _ counted]; exact counted
  · rw [all _ drawn]; exact drawn

/-- Every command but SETUP and the resets leaves STANDBY's reset values. -/
theorem exec {c : Instr} (n : setsMode c = false) {t : State} (e : exec c s = .next t) : InStandby t := by
  have op {effect : State → State} (h : InStandby (effect s)) (e : inOperation effect s = .next t) : InStandby t := by
    cases e
    exact .ite (fun _ => i) fun _ => h
  have stays {effect : State → State} (h : effect s = s) (e : inOperation effect s = .next t) : InStandby t :=
    op (by rw [h]; exact i) e
  cases c with
  | powerUp | pinReset | softwareReset | setup | refclkStops | refclkReturns => cases n
  | resetnRelease => cases e; exact i.of_only (setResetnLow_only s false)
  | hostFrameReceived bytes => exact op (i.hostBytes bytes) e
  | hostGapTimeout => exact op (.ite (fun _ => i.badHostFrame) fun _ => i) e
  | hostFrameSent => exact op (i.of_only (hostFrameSent_only s)) e
  | reset => exact op (i.takeRequest _ fun _ f _ j => j.ownerReset f) e
  | status during => exact op (i.takeRequest _ fun _ f _ j => (j.afterLooks during).reply f _ _) e
  | paramGet => exact op (i.takeRequest _ fun _ f _ j => j.reply f _ _) e
  | faultRead =>
    exact op (i.takeRequest _ fun _ f t j => j.of_only (ownerFaultRead_only f t)) e
  | kindUnknown => exact op (i.of_only (takeUnknown_only s)) e
  | paramSet | sync | demand | capPost | capWithdraw | capWithdrawSource | capList | profileWrite | profileCheck
  | profileRead | profileSelect | linkQuery | linkPost | arm | disarm | torqueOff | clearTrip | faultMask | faultTest =>
    exact op (i.refused rfl _) e
  | periodExpiry through slip => exact stays (effect := fun s => periodExpiry through s slip) (i.periodExpiry_eq _ _) e
  | hostEntryExpiry src x d => exact op (.ite (fun _ => i.setCt (by rw [i.ct]; rfl)) fun _ => i) e
  | armWindowExpiry => exact stays (by simp [i.armWindowExpires_eq]) e
  | linkTimerExpiry x gs => exact stays (by simp [i.linkTimerExpires_eq]) e
  | commandFrameComplete x met => exact op (i.frameEnds x met) e
  | breakEnd x => exact op (i.breakEnds x) e
  | statusFrameAccepted x bytes gs => exact stays (i.receiveBytes_eq x bytes _) e
  | statusFrameBad x bytes framingError => exact stays (i.receiveBad_eq x bytes framingError) e
  | receiveGapCut x => exact stays (by simp [i.gapCutAt_eq]) e
  | lineLow90us x gs => exact stays (i.lineLow_eq x _) e
  | receiveLineHigh x => exact op (i.lineHigh x) e
  | clockCheckWindowEnd edges gs =>
    exact op (effect := fun s => Machine.judgeWindow edges s (Machine.gaps gs)) (i.judgeWindow edges gs) e

end InStandby

end Sys2Proof.Machine
end

section
/-! What every step keeps of STANDBY, the period timer and the period operation, and the state after reset (O59, O4). -/

namespace Sys2Proof.Machine

/-! ### The commands that set the part state or REFCLK -/

theorem resetBlocks_inStandby (cause : ResetCause) (s : State) : InStandby (resetBlocks cause s) where
  part := rfl
  se := rfl
  di := rfl
  ct := rfl
  pt := rfl
  sm x := by cases x <;> rfl
  tm x := by cases x <;> rfl
  link x := by cases x <;> rfl
  out := rfl
  oc := rfl
  params := rfl
  sync := rfl
  hostLink := rfl

theorem softwareReset_inStandby (s : State) : InStandby (softwareReset s) :=
  ((resetBlocks_inStandby .software s).setLink .front _ rfl).setLink .rear _ rfl

/-- SETUP leaves STANDBY for READY, or leaves it as it was; no period operation is in progress after READY entry (R162, R163). -/
theorem takeSetup_cases (s : State) :
    RunsOn s (takeRequest .setup ownerSetup s)
        ∧ (InStandby s → InStandby (takeRequest .setup ownerSetup s))
      ∨ (takeRequest .setup ownerSetup s).hp.part = .ready ∧ (takeRequest .setup ownerSetup s).se.work = none := by
  have popped : RunsOn s (popRequest s) := .of_only (popRequest_only s)
  have answer (f : HostFrame) (r : ResultCode) (p : List Byte) (t : State) : RunsOn t (reply f r p t) :=
    .of_only (reply_only f r p t)
  have refusal (f : HostFrame) (r : ResultCode) (p : List Byte) :
      RunsOn s (reply f r p (popRequest s)) ∧ (InStandby s → InStandby (reply f r p (popRequest s))) :=
    ⟨popped.trans (answer _ _ _ _), fun i =>
      (i.of_only (popRequest_only s)).reply f r p⟩
  refine takeRequest_cases (P := fun t => RunsOn s t ∧ (InStandby s → InStandby t) ∨ t.hp.part = .ready ∧ t.se.work = none)
    _ _ s (.inl ⟨.refl s, id⟩) (fun f r p => .inl (refusal f r p)) fun _ f => ?_
  unfold ownerSetup
  dsimp only
  split
  · exact .inl (refusal _ _ _)
  · refine .inr ⟨?_, ?_⟩
    · rw [(reply_only _ _ _ _).part_eq (by simp), readyEntry_part]; rfl
    · rw [(reply_only _ _ _ _).se_eq (by simp), readyEntry_se]; rfl

theorem clockStops_part (m : Measures) (s : State) : (clockStops m s).hp.part = s.hp.part := by
  unfold clockStops
  split
  · rw [(holdMeasures_only m _).part_eq (by simp), (finishPeriod_only s).part_eq (by simp [periodParts, tripParts])]
  · rfl

/-! ### Steps -/

/-- What each command keeps: a part in STANDBY after it holds the reset values there. -/
theorem exec_keeps_standby {c : Instr} {s t : State} (i : StandbyHoldsResetValues s) (e : exec c s = .next t) :
    StandbyHoldsResetValues t := by
  rw [standbyHoldsResetValues_iff] at i ⊢
  intro standby
  by_cases n : setsMode c = false
  · exact (i ((exec_runsOn n e).part ▸ standby)).exec n e
  · cases c with
    | powerUp => cases e; exact resetBlocks_inStandby _ _
    | pinReset => cases e; exact (resetBlocks_inStandby _ _).of_only (setResetnLow_only _ true)
    | softwareReset =>
      cases e
      dsimp only at standby ⊢
      split at standby
      · rw [if_pos ‹_›]; exact i standby
      · rw [if_neg ‹_›]
        split at standby
        · rw [if_pos ‹_›]; exact softwareReset_inStandby s
        · rw [if_neg ‹_›]; exact i standby
    | setup =>
      cases e
      split at standby
      · rw [if_pos ‹_›]; exact i standby
      · rw [if_neg ‹_›]
        obtain ⟨runs, keeps⟩ | ⟨ready, -⟩ := takeSetup_cases s
        · exact keeps (i (runs.part ▸ standby))
        · rw [ready] at standby; cases standby
    | refclkStops m => cases e; exact (i (clockStops_part m s ▸ standby)).clockStops m
    | refclkReturns =>
      cases e
      refine (i ?_).of_only (clockReturns_only s)
      rwa [(clockReturns_only s).part_eq (by simp)] at standby
    | _ => exact absurd rfl n

/-- What each command keeps: no period operation in progress without REFCLK (R25). -/
theorem exec_keeps_clock {c : Instr} {s t : State} (i : OperationHasClock s) (e : exec c s = .next t) :
    OperationHasClock t := by
  have runs {u : State} (r : RunsOn s u) : OperationHasClock u := fun stopped =>
    have stopped' := r.refclk ▸ stopped
    (r.work stopped').trans (i stopped')
  by_cases n : setsMode c = false
  · exact runs (exec_runsOn n e)
  · cases c with
    | powerUp => cases e; exact fun _ => rfl
    | pinReset => cases e; exact fun _ => rfl
    | softwareReset =>
      cases e
      dsimp only
      split
      · exact i
      · split
        · exact fun _ => rfl
        · exact i
    | setup =>
      cases e
      split
      · exact i
      · obtain ⟨r, -⟩ | ⟨-, idle⟩ := takeSetup_cases s
        · exact runs r
        · exact fun _ => idle
    | refclkStops m =>
      cases e
      by_cases r : s.tb.refclk = true
      · exact fun _ => clockStops_work m r
      · simp [clockStops, r]; exact i
    | refclkReturns =>
      cases e
      intro stopped
      rw [clockReturns, (startHostFrame_only _).tb_eq (by simp)] at stopped
      cases stopped
    | _ => exact absurd rfl n

/-- Settles O59: `step_keeps_timer` for the period timer, and for the rest the commands that set the part state or REFCLK one by
one, and every other command by what it leaves (`exec_runsOn`, `InStandby.exec`). -/
theorem stepKeepsStandby : Obligations.StepKeepsStandby := by
  intro s t standby timer e
  refine ⟨?_, step_keeps_timer timer e, fun clock => ?_⟩
  · unfold step at e
    split at e
    · cases e
      rw [standbyHoldsResetValues_iff] at standby ⊢
      exact fun h => (standby ((msTick_runsOn s).part ▸ h)).msTick
    · rename_i rest _
      exact exec_keeps_standby (s := s.setPending rest) standby e
  · unfold step at e
    split at e
    · cases e
      exact fun h =>
        have h' := (msTick_runsOn s).refclk ▸ h
        ((msTick_runsOn s).work h').trans (clock h')
    · rename_i rest _
      exact exec_keeps_clock (s := s.setPending rest) clock e

end Sys2Proof.Machine
end

section
/-! A period operation that goes on: which stages a PERIOD_EXPIRY runs, what they leave, and what the stop and the return of REFCLK
do (O42, O53). -/

namespace Sys2Proof.Machine

/-- A part not held in reset takes a PERIOD_EXPIRY (R168). -/
theorem exec_periodExpiry {s : State} (h : s.resetnLow = false) (through : Stage) (slip : SlipOrder) :
    exec (.periodExpiry through slip) s = .next (periodExpiry through s slip) := by
  show inOperation (fun s => periodExpiry through s slip) s = _
  simp [inOperation, h]

/-- Where a PERIOD_EXPIRY changes nothing, so does the command, held in reset or not. -/
theorem exec_periodExpiry_idle {s : State} {through : Stage} {slip : SlipOrder} (h : periodExpiry through s slip = s) :
    exec (.periodExpiry through slip) s = .next s := by
  show inOperation (fun s => periodExpiry through s slip) s = _
  simp [inOperation, h]

theorem takeStaleTrip_none (n : Nat) {w : PeriodWork} (h : w.staleTripAt = none) (s : State) :
    takeStaleTrip n w s = (w, s) := by simp [takeStaleTrip, h]

/-- The next stage of an operation with no trip of a DEMAND_STALE under way. -/
theorem runStages_cons {w : PeriodWork} (h : w.staleTripAt = none) (t : Stage) (rest : List Stage) (s : State) :
    runStages (t :: rest) w s = runStages rest (runStage t w s).1 (runStage t w s).2 := by
  simp [runStages, takeStaleTrip_none _ h]

/-- An operation that stands goes on to a stage before the last. -/
theorem periodExpiry_standing {n : Nat} {w : PeriodWork} {s : State} (h : Standing n w s) {through : Stage}
    (last : through ≠ .report) {r : Staged} (e : runStages (stagesUpTo n (stageNumber through)) w s = r) :
    periodExpiry through s = r.2.setSe { r.2.se with work := some r.1 } := by
  obtain ⟨⟨-, c⟩, work, rfl, -⟩ := h
  simp [periodExpiry, c, work, runOperation, runUpTo, last, e]

/-- An operation that stands goes on to its end. -/
theorem periodExpiry_standing_report {n : Nat} {w : PeriodWork} {s : State} (h : Standing n w s) {r : Staged}
    (e : runStages (stagesUpTo n 12) w s = r) (trip : r.1.staleTripAt = none) :
    periodExpiry .report s = r.2.setSe { r.2.se with work := none } := by
  obtain ⟨⟨-, c⟩, work, rfl, -⟩ := h
  simp [periodExpiry, c, work, runOperation, runUpTo, stageNumber, e, takeStaleTrip_none 13 trip]

/-- An operation that stands does one more stage. -/
theorem exec_oneStage {n : Nat} {w : PeriodWork} {s : State} (h : Standing n w s) {through : Stage}
    (last : through ≠ .report) (one : stagesUpTo n (stageNumber through) = [through]) :
    exec (.periodExpiry through) s = .next ((runStage through w s).2.setSe
      { (runStage through w s).2.se with work := some (runStage through w s).1 }) := by
  obtain ⟨⟨operating, -⟩, -, -, noTrip⟩ := id h
  rw [exec_periodExpiry operating, periodExpiry_standing h last (r := runStage through w s)]
  rw [one, runStages_cons noTrip]
  rfl

/-! ### The period number -/

theorem runStage_periodNumber (t : Stage) (w : PeriodWork) (s : State) :
    (runStage t w s).2.se.periodNumber = s.se.periodNumber := by
  cases t with
  | demand => show (stageDemand w s).2.se.periodNumber = _; rw [(stageDemand_only w s).se_eq (by simp)]
  | outputState => show (stageOutputState w s).2.se.periodNumber = _; rw [(stageOutputState_only w s).se_eq (by simp)]
  | share | caps | split | clamp | transfer | slew | shortfall => rfl
  | issue =>
    show (takeIssue .rear _ (takeIssue .front _ s)).se.periodNumber = _
    rw [(takeIssue_only .rear _ _).se_eq (by simp), (takeIssue_only .front _ _).se_eq (by simp)]
  | monitor => show (stageMonitor w s).2.se.periodNumber = _; rw [stageMonitor_se w s rfl]
  | report =>
    show (completePeriod (reportStep w s)).se.periodNumber = _
    rw [(completePeriod_only _).se_eq (by simp)]
    unfold reportStep
    dsimp only
    split
    · rfl
    · split
      · rw [(offerReport_only _ _).se_eq (by simp)]; rfl
      · rfl

theorem takeStaleTrip_periodNumber (n : Nat) (w : PeriodWork) (s : State) :
    (takeStaleTrip n w s).2.se.periodNumber = s.se.periodNumber := by
  unfold takeStaleTrip
  split
  · show (trip _ s).se.periodNumber = _
    rw [(trip_only _ s).se_eq (by simp [tripParts])]
  · rfl

theorem runStages_periodNumber (ts : List Stage) (w : PeriodWork) (s : State) :
    (runStages ts w s).2.se.periodNumber = s.se.periodNumber := by
  induction ts generalizing w s with
  | nil => rfl
  | cons t rest ih => exact ((ih _ _).trans (runStage_periodNumber t _ _)).trans (takeStaleTrip_periodNumber _ w s)

theorem runUpTo_periodNumber (slip : SlipOrder) (last : Nat) (w : PeriodWork) (s : State) :
    (runUpTo slip last w s).2.se.periodNumber = s.se.periodNumber := by
  unfold runUpTo
  split
  · unfold runLate
    dsimp only
    rw [runStages_periodNumber, takeStaleTrip_periodNumber, runStages_periodNumber, runStages_periodNumber]
  · exact runStages_periodNumber _ _ _

/-- An operation keeps its period number (R3). -/
theorem runOperation_periodNumber (w : PeriodWork) (through : Stage) (s : State) (slip : SlipOrder) :
    (runOperation w through s slip).se.periodNumber = s.se.periodNumber := by
  unfold runOperation
  dsimp only
  split
  · show (takeStaleTrip 13 _ _).2.se.periodNumber = _
    rw [takeStaleTrip_periodNumber, runUpTo_periodNumber]
  · exact runUpTo_periodNumber _ _ _ _

/-! ### The end of the operation -/

theorem runOperation_report_work (w : PeriodWork) (s : State) (slip : SlipOrder) :
    (runOperation w .report s slip).se.work = none := by
  simp [runOperation]

theorem periodExpiry_due {s : State} (h : PeriodDue s) (through : Stage) (slip : SlipOrder) :
    periodExpiry through s slip = runOperation PeriodWork.start through (beginPeriod s) slip := by
  obtain ⟨⟨-, c⟩, running, work⟩ := h
  simp [periodExpiry, periodTimerRuns, c, running, work]

theorem periodExpiry_inProgress {s : State} {w : PeriodWork} (c : s.tb.refclk = true) (work : s.se.work = some w)
    (through : Stage) (slip : SlipOrder) : periodExpiry through s slip = runOperation w through s slip := by
  simp [periodExpiry, c, work]

/-- Without an operation in progress and without the timer a PERIOD_EXPIRY does nothing (R2). -/
theorem periodExpiry_noTimer {s : State} (work : s.se.work = none) (timer : s.se.timerRunning = false) (through : Stage)
    (slip : SlipOrder) : periodExpiry through s slip = s := by
  simp [periodExpiry, periodTimerRuns, work, timer]

theorem exec_refclkStops_idle (m : Measures) {s : State} (c : s.tb.refclk = true) (work : s.se.work = none) :
    exec (.refclkStops m) s = .next (holdMeasures m s) :=
  congrArg Host.Outcome.next (clockStops_idle m work c)

theorem exec_refclkStops_inProgress (m : Measures) {s : State} {w : PeriodWork} (c : s.tb.refclk = true)
    (work : s.se.work = some w) : exec (.refclkStops m) s = .next (holdMeasures m (periodExpiry .report s)) := by
  show Host.Outcome.next (clockStops m s) = _
  simp [clockStops, c, finishPeriod_eq work c]

/-- Settles O42: the last stage ends the operation (`runOperation_report_work`), every stage keeps its number
(`runOperation_periodNumber`), and a PERIOD_EXPIRY without REFCLK or without the timer changes nothing. -/
theorem periodOperationCompletes : Obligations.PeriodOperationCompletes := by
  refine ⟨fun s due => ?_, fun s w ⟨operating, c⟩ work => ?_, fun s w m ⟨operating, c⟩ work => ?_,
    fun s through slip stopped => exec_periodExpiry_idle (periodExpiry_stopped through slip stopped),
    fun s through slip work timer => exec_periodExpiry_idle (periodExpiry_noTimer work timer through slip)⟩
  · refine ⟨_, exec_periodExpiry due.1.1 _ _, ?_⟩
    rw [periodExpiry_due due, runOperation_report_work, runOperation_periodNumber]
    exact ⟨rfl, rfl⟩
  · refine ⟨_, exec_periodExpiry operating _ _, ?_⟩
    rw [periodExpiry_inProgress c work, runOperation_report_work, runOperation_periodNumber]
    exact ⟨rfl, rfl⟩
  · refine ⟨_, _, exec_periodExpiry operating _ _, exec_refclkStops_inProgress m c work, ?_, ?_, rfl, rfl, rfl⟩
    · show (periodExpiry .report s).se.work = none
      rw [periodExpiry_inProgress c work, runOperation_report_work]
    · show (periodExpiry .report s).se.periodNumber = _
      rw [periodExpiry_inProgress c work, runOperation_periodNumber]

/-! ### REFCLK stops and returns -/

/-- A frame on a line, whether in flight or left there by a software reset, and a frame being received hold at the command's
measures as REFCLK stops (R25, R101). -/
theorem hold_measures (l : AxleLink) (m : LineMeasures) :
    (∀ g, l.inFlight = some g → (l.hold m).inFlight = some g ∧ (l.hold m).txBits = m.txBits)
      ∧ (∀ g bits, l.tail = .frame g bits → (l.hold m).tail = .frame g m.txBits)
      ∧ (l.partialBytes ≠ [] → (l.hold m).partialBytes = l.partialBytes ∧ (l.hold m).rxGapUs = m.rxGapUs) := by
  refine ⟨fun g h => ?_, fun g bits h => ?_, fun h => ?_⟩
  · simp [AxleLink.hold, h]
  · simp [AxleLink.hold, h, LineTail.hold]
  · simp [AxleLink.hold, h]

theorem holdMeasures_link (m : Measures) (s : State) (x : Axle) :
    (holdMeasures m s).link.get x = (s.link.get x).hold (lineMeasures x m) := by cases x <;> rfl

/-- REFCLK returns: the frames on their way out are the same, one being sent goes on, and otherwise the queue's head starts (R25,
R154). -/
theorem clockReturns_sending (s : State) :
    outbox (clockReturns s) = outbox s
      ∧ (∀ g, s.hp.sending = some g → (clockReturns s).hp.sending = some g ∧ (clockReturns s).hp.sendBits = s.hp.sendBits)
      ∧ (s.hp.sending = none → (clockReturns s).hp.sending = s.hp.txQueue.head?) := by
  refine ⟨outbox_startHostFrame _, fun g h => ?_, fun h => ?_⟩
  · simp [clockReturns, startHostFrame, h]
  · cases q : s.hp.txQueue <;> simp [clockReturns, startHostFrame, h, q]

/-- Settles O53: with no operation in progress REFCLK_STOPS is `holdMeasures`, one in progress is first completed, and each command
that REFCLK times is the state itself while it is absent. -/
theorem refclkStopsAndReturns : Obligations.RefclkStopsAndReturns := by
  refine ⟨fun s m c idle => ?_, fun s w m ⟨operating, c⟩ work => ?_, ?_, fun s stopped => ?_⟩
  · refine ⟨_, exec_refclkStops_idle m c idle, rfl, rfl, rfl, rfl, rfl, fun x => ?_, fun x => ?_, fun x => ?_, ?_⟩
    · rw [holdMeasures_link]; exact (hold_measures _ _).1
    · rw [holdMeasures_link]; exact (hold_measures _ _).2.1
    · rw [holdMeasures_link]; exact (hold_measures _ _).2.2
    · exact (holdMeasures_only m s).mono (by simp)
  · have tb : (periodExpiry .report s).tb = s.tb := (periodExpiry_only _ s _).tb_eq (by simp [periodParts, tripParts])
    have ended : (periodExpiry .report s).se.work = none := by
      rw [periodExpiry_inProgress c work, runOperation_report_work]
    refine ⟨_, exec_periodExpiry operating _ _, tb, ended, ?_⟩
    rw [exec_refclkStops_inProgress m c work, exec_refclkStops_idle m (tb ▸ c) ended]
  · intro s c x bytes err h d through slip met stopped hc
    have stays {effect : State → State} (e : effect s = s) : inOperation effect s = .next s := by simp [inOperation, e]
    simp only [List.mem_cons, List.not_mem_nil, or_false] at hc
    obtain rfl | rfl | rfl | rfl | rfl | rfl | rfl | rfl | rfl | rfl | rfl | rfl := hc
    · exact exec_periodExpiry_idle (periodExpiry_stopped through slip stopped)
    · exact stays (by simp [hostBytes, stopped])
    · exact stays (by simp [hostGap, stopped])
    · exact stays (by simp [hostFrameSent, stopped])
    · exact stays (by simp [msTimerRuns, stopped])
    · exact stays (by simp [msTimerRuns, stopped])
    · exact stays (by simp [msTimerRuns, stopped])
    · exact stays (by rw [frameEnds_idle (.inl stopped)]; simp [frameCompletes, stopped])
    · exact stays (receiveBytes_stopped x bytes _ stopped)
    · exact stays (by simp [receiveBad, receiveBytes_stopped x bytes _ stopped, stopped])
    · exact stays (by simp [stopped])
    · exact stays (lineLow_stopped x _ stopped)
  · obtain ⟨out, goesOn, starts⟩ := clockReturns_sending s
    refine ⟨_, rfl, ?_, out, goesOn, starts, clockReturns_only s⟩
    rw [clockReturns, (startHostFrame_only _).tb_eq (by simp)]
    rfl

end Sys2Proof.Machine
end

section
/-! Stages 2, 11 and 12 of the period operation (O37, O41). -/

namespace Sys2Proof.Machine

/-- What the record of the operation in progress adds to the Split Engine. -/
theorem setWork_se {u : State} {v : SplitEngine} (h : u.se = v) (w : Option PeriodWork) :
    (u.setSe { u.se with work := w }).se = { v with work := w } := by rw [← h]; rfl

/-! ### Stage 2 -/

/-- The demand notice arms (R132). -/
theorem demandNotice_arms {n : Nat} {s : State} (h : s.oc.state = .arming) (later : laterThan n s.oc.armMark = true) :
    demandNotice n s
      = s.setOc { s.oc with state := .armed, armWindow := none, lastOutcome := .armed, enF := true, enR := true } := by
  simp [demandNotice, h, later]

/-- The demand notice does nothing outside ARMING, or where the accepted number is not later than the arm mark (R132). -/
theorem demandNotice_idle {n : Nat} {s : State} (h : s.oc.state ≠ .arming ∨ laterThan n s.oc.armMark = false) :
    demandNotice n s = s := by
  rcases h with h | h <;> simp [demandNotice, h]

/-- Settles O37: one more stage, which is the demand notice (`demandNotice_arms`, `demandNotice_idle`) and a read. -/
theorem periodReadsOutputState : Obligations.PeriodReadsOutputState := by
  intro s w h
  have only := demandNotice_only w.accepted s
  refine ⟨_, exec_oneStage h (by decide) (by decide), fun arming later => ?_, fun idle => ?_, ?_, ?_⟩
  · show (demandNotice w.accepted s).oc = _
    rw [demandNotice_arms arming later]
    rfl
  · show (demandNotice w.accepted s).oc = _
    rw [demandNotice_idle idle]
  · exact setWork_se (only.se_eq (by simp)) _
  · exact (only.mono (by simp)).trans ((setSe_only _ _).mono (by simp))

/-! ### Stage 11 -/

/-- SHORTFALL as it was: no signal (R19). -/
theorem stageMonitor_only_same {w : PeriodWork} {s : State} {run : Nat}
    (h : run = if w.shortfallThreshold < w.shortfall.natAbs then satInc 65535 s.se.shortfallRun else 0)
    (same : decide (w.shortfallCount ≤ run) = s.se.shortfallLive) : OnlyChanges [.se] s (stageMonitor w s).2 := by
  subst h
  unfold stageMonitor
  dsimp only
  rw [if_pos same]
  exact setSe_only _ _

/-- SHORTFALL changes, and is signalled (R19). -/
theorem stageMonitor_signals {w : PeriodWork} {s : State} {run : Nat}
    (h : run = if w.shortfallThreshold < w.shortfall.natAbs then satInc 65535 s.se.shortfallRun else 0)
    (changed : decide (w.shortfallCount ≤ run) ≠ s.se.shortfallLive) :
    (stageMonitor w s).2 = signalReporting .shortfall (.live (decide (w.shortfallCount ≤ run)))
      (s.setSe { s.se with shortfallRun := run, shortfallLive := decide (w.shortfallCount ≤ run) }) := by
  subst h
  unfold stageMonitor
  dsimp only
  rw [if_neg changed]

/-! ### Stage 12 -/

theorem usedCaps_eq (w : PeriodWork) :
    w.usedCaps = ⟨if w.demand < 0 then w.caps.front.regen else w.caps.front.drive,
      if w.demand < 0 then w.caps.rear.regen else w.caps.rear.drive⟩ := by
  unfold PeriodWork.usedCaps demandDirection
  split <;> rfl

/-- A SPLIT REPORT falls due in this period (R20). -/
def reportDue (s : State) : Bool :=
  decide (s.hp.params.reportInterval ≠ 0 ∧ s.hp.params.reportInterval ≤ s.se.reportCount + 1)

/-- A report falls due: the count begins anew and the report is offered (R20, R22). -/
theorem reportStep_due {s : State} (h : reportDue s = true) (w : PeriodWork) :
    reportStep w s = offerReport (reportPayload w s) (s.setSe { s.se with reportCount := 0 }) := by
  obtain ⟨on, due⟩ : s.hp.params.reportInterval ≠ 0 ∧ s.hp.params.reportInterval ≤ s.se.reportCount + 1 := by
    simpa [reportDue] using h
  simp [reportStep, on, due]

/-- No report falls due: the count goes on, or stays 0 where the interval is 0 (R20). -/
theorem reportStep_notDue {s : State} (h : reportDue s = false) (w : PeriodWork) :
    reportStep w s = s.setSe
      { s.se with reportCount := if s.hp.params.reportInterval = 0 then 0 else s.se.reportCount + 1 } := by
  unfold reportStep
  dsimp only
  by_cases on : s.hp.params.reportInterval = 0
  · simp [on]
  · have late : ¬s.hp.params.reportInterval ≤ s.se.reportCount + 1 := by simpa [reportDue, on] using h
    simp [on, late]

theorem offerReport_hp (p : List Byte) (s : State) :
    outbox (offerReport p s) = outbox s ++ (if admitsUnsolicited s then [⟨0xE0#8, 0, p⟩] else [])
      ∧ (offerReport p s).hp.reportSkips
        = (if admitsUnsolicited s then s.hp.reportSkips else min (s.hp.reportSkips + 1) 65535)
      ∧ (offerReport p s).hp.noticeSkips = s.hp.noticeSkips := by
  unfold offerReport
  split
  · have only := enqueueFrame_only ⟨0xE0#8, 0, p⟩ s
    exact ⟨outbox_enqueueFrame _ s, only.reportSkips_eq (by simp), only.noticeSkips_eq (by simp)⟩
  · exact ⟨by simp [outbox], rfl, rfl⟩

/-- The report step: what it sends, and how the report-skip counter and the report count move (R20, R22, R161). -/
theorem reportStep_effect (w : PeriodWork) (s : State) :
    (reportStep w s).se = { s.se with
        reportCount := if s.hp.params.reportInterval = 0 ∨ reportDue s = true then 0 else s.se.reportCount + 1 }
      ∧ outbox (reportStep w s)
        = outbox s ++ (if reportDue s && admitsUnsolicited s then [⟨0xE0#8, 0, reportPayload w s⟩] else [])
      ∧ (reportStep w s).hp.reportSkips
        = (if reportDue s = true ∧ (reportDue s && admitsUnsolicited s) = false then min (s.hp.reportSkips + 1) 65535
           else s.hp.reportSkips)
      ∧ (reportStep w s).hp.noticeSkips = s.hp.noticeSkips := by
  cases due : reportDue s
  · rw [reportStep_notDue due]
    simp [outbox]
  · obtain ⟨out, skips, notices⟩ := offerReport_hp (reportPayload w s) (s.setSe { s.se with reportCount := 0 })
    have admits : admitsUnsolicited (s.setSe { s.se with reportCount := 0 }) = admitsUnsolicited s := rfl
    rw [reportStep_due due, (offerReport_only _ _).se_eq (by simp), out, skips, notices, admits]
    refine ⟨by simp, by simp [outbox], ?_, rfl⟩
    cases admitsUnsolicited s <;> simp

/-- The reply to a SYNC that awaits this period, where there is one (R166). -/
def syncAnswers (s : State) : List HostFrame :=
  (s.hp.pendingSync.toList.filter fun y => decide (y.awaited = s.se.periodNumber)).map fun y =>
    syncReply y.tag .ok s.se.periodNumber

theorem completePeriod_effect (s : State) :
    outbox (completePeriod s) = outbox s ++ syncAnswers s
      ∧ (∀ y, s.hp.pendingSync = some y →
          (completePeriod s).hp.pendingSync = if y.awaited = s.se.periodNumber then none else some y)
      ∧ (s.hp.pendingSync = none → (completePeriod s).hp.pendingSync = none) := by
  unfold completePeriod syncAnswers
  cases pending : s.hp.pendingSync with
  | none => simp [pending]
  | some y =>
    dsimp only
    by_cases now : y.awaited = s.se.periodNumber
    · have only (t : State) := enqueueFrame_only (syncReply y.tag .ok s.se.periodNumber) t
      rw [if_pos now, outbox_enqueueFrame, (only _).pendingSync_eq (by simp)]
      simp [now, outbox]
    · simp [now, pending]

/-- An operation that stands after stage 11 reports and ends. -/
theorem exec_lastStage {w : PeriodWork} {s : State} (h : Standing 11 w s) :
    exec (.periodExpiry .report) s = .next ((completePeriod (reportStep w s)).setSe
      { (completePeriod (reportStep w s)).se with work := none }) := by
  obtain ⟨⟨operating, -⟩, -, -, noTrip⟩ := id h
  rw [exec_periodExpiry operating, periodExpiry_standing_report h (r := runStage .report w s)]
  · rfl
  · rw [show stagesUpTo 11 12 = [.report] by decide, runStages_cons noTrip]
    rfl
  · exact noTrip

/-- Settles O41: stage 11 is `stageMonitor_se` and the signal of a change; stage 12 is the report step and then the completion of
a pending SYNC. -/
theorem periodMonitorsAndReports : Obligations.PeriodMonitorsAndReports := by
  refine ⟨fun s w run h hrun => ?_, fun s w interval capF capR offered admitted h hi ho ha hf hr => ?_⟩
  · refine ⟨_, exec_oneStage h (by decide) (by decide), setWork_se (stageMonitor_se w s hrun) _, fun same => ?_,
      fun changed => ?_⟩
    · exact (stageMonitor_only_same hrun same).trans (setSe_only _ _)
    · have signals := stageMonitor_signals hrun changed
      have taken := liveTaken_signalReporting .shortfall (decide (w.shortfallCount ≤ run))
        (s.setSe { s.se with shortfallRun := run, shortfallLive := decide (w.shortfallCount ≤ run) })
      have others := onlyFaults_signalReporting .shortfall (.live (decide (w.shortfallCount ≤ run)))
        (s.setSe { s.se with shortfallRun := run, shortfallLive := decide (w.shortfallCount ≤ run) })
      have notices := noticesSent_take .shortfall (.live (decide (w.shortfallCount ≤ run)))
        (s.setSe { s.se with shortfallRun := run, shortfallLive := decide (w.shortfallCount ≤ run) })
      rw [← signals] at taken others notices
      exact ⟨taken, others, notices, (stageMonitor_only w s).trans ((setSe_only _ _).mono (by simp))⟩
  obtain ⟨se, out, reportSkips, noticeSkips⟩ := reportStep_effect w s
  obtain ⟨out', sync, noSync⟩ := completePeriod_effect (reportStep w s)
  have reported := reportStep_only w s
  have completed := completePeriod_only (reportStep w s)
  have pending : (reportStep w s).hp.pendingSync = s.hp.pendingSync := reported.pendingSync_eq (by simp)
  have number : (reportStep w s).se.periodNumber = s.se.periodNumber := by rw [se]
  have due : offered = reportDue s := by rw [ho, hi]; rfl
  have admits : admitted = (reportDue s && admitsUnsolicited s) := by
    rw [ha, due]; simp only [admitsUnsolicited, Bool.and_assoc]
  rw [pending, number] at sync
  rw [pending] at noSync
  refine ⟨_, exec_lastStage h, ?_, ?_, ?_, sync, noSync, ?_, ?_⟩
  · rw [hi, due]
    exact setWork_se ((completed.se_eq (by simp)).trans se) _
  · have caps : w.usedCaps = ⟨capF, capR⟩ := by rw [usedCaps_eq, hf, hr]
    refine (out'.trans (congrArg (· ++ syncAnswers (reportStep w s)) out)).trans ?_
    refine congr (congrArg HAppend.hAppend ?_) ?_
    · rw [admits, reportPayload, caps]
    · rw [syncAnswers, pending, number]
      cases s.hp.pendingSync with
      | none => rfl
      | some y =>
        by_cases now : y.awaited = s.se.periodNumber
        · simp only [now, Option.toList_some, List.filter_cons, decide_true, if_true, List.filter_nil, List.map_cons,
            List.map_nil]
          rfl
        · simp [now]
  · exact (completed.reportSkips_eq (by simp)).trans (by rw [reportSkips, due, admits])
  · exact (completed.noticeSkips_eq (by simp)).trans noticeSkips
  · exact ((reported.mono (by simp)).trans (completed.mono (by simp))).trans ((setSe_only _ _).mono (by simp))

end Sys2Proof.Machine
end

section
/-! The state after reset (O4). -/

namespace Sys2Proof.Machine

/-- The record of a fault after reset: clear, and masked for the two slip faults (R141). -/
theorem faultRecord_reset (c : FaultCode) :
    faultRecord c State.reset
      = { live := false, test := false, latched := false, masked := decide (c = .slipF ∨ c = .slipR), count := 0 } := by
  cases c <;> rfl

/-- State.reset is what the reset of every block gives with cause POWER. -/
theorem reset_inStandby : InStandby State.reset := resetBlocks_inStandby .power State.reset

theorem slots_reset (src : InternalSource) (x : Axle) (d : Direction) : CapTable.reset.slots.get src x d = none := by
  cases src <;> cases x <;> cases d <;> rfl

theorem profilesInRange_reset : ProfilesInRange State.reset := by
  refine ⟨fun n p h => ?_, rfl⟩
  have only0 : ∀ n : Fin 8, n ≠ 0 → (State.reset.pt.slots.get n).profile = none := by decide
  by_cases zero : n = 0
  · subst zero
    cases h
    decide
  · rw [only0 n zero] at h
    cases h

theorem attnFollowsFaults_reset : AttnFollowsFaults State.reset := ⟨fun _ => .inl rfl, fun _ => rfl⟩

theorem linkEntriesFollowState_reset : LinkEntriesFollowState State.reset := fun x d => by
  have empty : State.reset.ct.slots.get .link x d = none := slots_reset .link x d
  rw [empty]
  exact congrArg LinkState.isBlocked (reset_inStandby.linkState x)

theorem slipEntriesFollowMonitors_reset : SlipEntriesFollowMonitors State.reset := by
  refine ⟨fun x d => ?_, fun x cap h => ?_⟩
  · show (CapTable.reset.slots.get .slip x d).map CapSlot.limit = _
    rw [slots_reset]
    cases x <;> rfl
  · cases x <;> cases h

theorem faultsFollowConditions_reset : FaultsFollowConditions State.reset := by
  have live (c : FaultCode) : (faultRecord c State.reset).live = false := by rw [faultRecord_reset]
  refine ⟨live _, fun x => ?_, fun x => ?_, live _, fun x => ?_, fun x => ?_, live _, live _, live _, live _, live _⟩ <;>
    rw [live] <;> cases x <;> rfl

/-- Settles O4: each value by evaluation, and each property that a step keeps by its own lemma. -/
theorem resetState : Obligations.ResetState := by
  have noForcing : ForcingHoldsTripped State.reset := fun ready => by cases ready
  have off : ∀ x, (State.reset.link.get x).state = .off ∧ (State.reset.link.get x).timer = none :=
    fun x => ⟨reset_inStandby.linkState x, reset_inStandby.timer x⟩
  have shares : SharesInRange State.reset := ⟨profilesInRange_reset, by decide⟩
  have slip : SlipFollowsState State.reset := fun x => by cases x <;> exact ⟨rfl, rfl⟩
  have standby : StandbyHoldsResetValues State.reset := (standbyHoldsResetValues_iff _).2 fun _ => reset_inStandby
  exact ⟨rfl, rfl, rfl, rfl, rfl, rfl, rfl, rfl, rfl, rfl, faultRecord_reset, off, rfl, rfl, rfl, by decide, rfl, rfl, rfl,
    rfl, rfl, ⟨rfl, rfl⟩, fun _ => rfl, noForcing, attnFollowsFaults_reset, shares, linkEntriesFollowState_reset,
    ⟨rfl, rfl, rfl⟩, slip, slipEntriesFollowMonitors_reset, faultsFollowConditions_reset, standby, rfl, fun _ => rfl,
    by unfold QueuesBounded; decide, List.Pairwise.nil⟩

end Sys2Proof.Machine
end

section
/-! Stages 5 to 9 of the period operation: split, clamp, transfer, slew and shortfall (O39). -/

namespace Sys2Proof.Machine

/-! ### A quantity between 0 and a bound -/

/-- `y` lies between 0 and `b`, on the side of `b`. -/
def Within (y b : Int) : Prop := 0 ≤ y ∧ y ≤ b ∨ b ≤ y ∧ y ≤ 0

theorem Within.natAbs_le {y b : Int} (h : Within y b) : y.natAbs ≤ b.natAbs := by unfold Within at h; omega

theorem Within.mul_nonneg {y b : Int} (h : Within y b) : 0 ≤ y * b := by
  rcases h with ⟨h1, h2⟩ | ⟨h1, h2⟩
  · exact Int.mul_nonneg h1 (by omega)
  · exact Int.mul_nonneg_of_nonpos_of_nonpos h2 (by omega)

theorem Within.trans {x y b : Int} (h : Within x y) (k : Within y b) : Within x b := by
  unfold Within at h k ⊢; omega

/-- What is left of a part goes the same way. -/
theorem Within.sub {x y b : Int} (h : Within x y) (k : Within y b) : Within (y - x) b := by
  unfold Within at h k ⊢; omega

/-! ### The stages -/

theorem clampTo_within (part : Int) (cap : Nat) : Within (clampTo part cap) part := by
  unfold Within
  rcases Int.le_total 0 part with h | h
  · rw [clampTo_of_nonneg cap h]; omega
  · rw [clampTo_of_nonpos cap h]; omega

theorem slewTo_within (target prev : Int) (step : Nat) : Within (slewTo target prev step) target := by
  rcases Int.le_total 0 target with h | h
  · exact .inl (slewTo_of_nonneg prev step h)
  · exact .inr (slewTo_of_nonpos prev step h).symm

theorem splitParts_within (d : Int) {share : Nat} (h : share ≤ 1000) (x : Axle) : Within ((splitParts d share).get x) d := by
  have sum := splitParts_sum d share
  unfold Within
  rcases Int.le_total 0 d with hd | hd
  · have := splitParts_of_nonneg hd h
    cases x <;> simp only [ByAxle.get_front, ByAxle.get_rear] <;> omega
  · have := splitParts_of_nonpos hd h
    cases x <;> simp only [ByAxle.get_front, ByAxle.get_rear] <;> omega

/-- The whole demand goes to the rear axle at share 0, and to the front axle at share 1000 (R9). -/
theorem splitParts_ends (d : Int) : (splitParts d 0).rear = d ∧ (splitParts d 1000).front = d := by
  simp only [splitParts]
  refine ⟨by simp, Int.mul_tdiv_cancel d (by decide)⟩

/-- The targets go the way of the demand, within the caps, and their sum within the demand (R10, R11). -/
theorem transferParts_within {d : Int} {share : Nat} (caps : ByAxle Nat) (transfer : Nat) (h : share ≤ 1000)
    {targets : ByAxle Int}
    (ht : targets = transferParts d (splitParts d share) (clampParts (splitParts d share) caps) caps transfer) :
    Within targets.front d ∧ Within targets.rear d ∧ Within (targets.front + targets.rear) d
      ∧ targets.front.natAbs ≤ caps.front ∧ targets.rear.natAbs ≤ caps.rear := by
  have sum := splitParts_sum d share
  unfold Within
  by_cases hd : d < 0
  · obtain ⟨hf, hr⟩ := splitParts_of_nonpos (Int.le_of_lt hd) h
    have facts := transferParts_of_neg transfer hd hf hr sum (clamped := clampParts (splitParts d share) caps)
      (clampTo_of_nonpos caps.front hf) (clampTo_of_nonpos caps.rear hr)
    rw [← ht] at facts
    omega
  · obtain ⟨hf, hr⟩ := splitParts_of_nonneg (Int.not_lt.1 hd) h
    have facts := transferParts_of_nonneg transfer (Int.not_lt.1 hd) hf hr sum
      (clamped := clampParts (splitParts d share) caps) (clampTo_of_nonneg caps.front hf)
      (clampTo_of_nonneg caps.rear hr)
    rw [← ht] at facts
    omega

/-- Where the profile transfers, the excess of one axle alone moves to the other, up to its headroom (R11). -/
theorem transferParts_cases (d : Int) (parts clamped : ByAxle Int) (caps : ByAxle Nat) :
    (parts.front = clamped.front → parts.rear = clamped.rear → transferParts d parts clamped caps 1 = clamped)
      ∧ (parts.front ≠ clamped.front → parts.rear ≠ clamped.rear → transferParts d parts clamped caps 1 = clamped)
      ∧ (parts.front ≠ clamped.front → parts.rear = clamped.rear → transferParts d parts clamped caps 1
          = ⟨clamped.front, clamped.rear + Int.sign d
              * min ((parts.front - clamped.front).natAbs : Int) (caps.rear - clamped.rear.natAbs)⟩)
      ∧ (parts.front = clamped.front → parts.rear ≠ clamped.rear → transferParts d parts clamped caps 1
          = ⟨clamped.front + Int.sign d
              * min ((parts.rear - clamped.rear).natAbs : Int) (caps.front - clamped.front.natAbs), clamped.rear⟩) := by
  simp only [transferParts, if_true]
  refine ⟨fun hf hr => ?_, fun hf hr => ?_, fun hf hr => ?_, fun hf hr => ?_⟩
  · rw [if_neg (by omega), if_neg (by omega)]
  · rw [if_neg (by omega), if_neg (by omega)]
  · rw [if_pos (by omega)]
  · rw [if_neg (by omega), if_pos (by omega)]

/-- The slew of one command, case by case (R12). -/
theorem slewTo_cases (target prev : Int) (step : Nat) :
    (target = 0 → slewTo target prev step = 0)
      ∧ (target ≠ 0 → (prev = 0 ∨ Int.sign target ≠ Int.sign prev) →
          slewTo target prev step = Int.sign target * min (target.natAbs : Int) step)
      ∧ (target ≠ 0 → prev ≠ 0 → Int.sign target = Int.sign prev → prev.natAbs < target.natAbs →
          slewTo target prev step = Int.sign target * min (target.natAbs : Int) (prev.natAbs + step))
      ∧ (target ≠ 0 → prev ≠ 0 → Int.sign target = Int.sign prev → target.natAbs ≤ prev.natAbs →
          slewTo target prev step = target) := by
  unfold slewTo
  refine ⟨fun h => if_pos h, fun h k => ?_, fun h p k rise => ?_, fun h p k fall => ?_⟩
  · rw [if_neg h, if_pos k]
  · rw [if_neg h, if_neg (by simp [p, k]), if_pos rise]
  · rw [if_neg h, if_neg (by simp [p, k]), if_neg (by omega)]

/-! ### The operation -/

/-- The record of an operation after stages 5 to 9, with the commands of the period before. -/
def PeriodWork.splitUp (w : PeriodWork) (prevFront prevRear : Int) : PeriodWork :=
  let parts := splitParts w.demand w.share
  let clamped := clampParts parts w.usedCaps
  let targets := transferParts w.demand parts clamped w.usedCaps w.transfer
  let outputs := slewParts targets prevFront prevRear w.slewStep
  { w with done := 9, parts := parts, clamped := clamped, targets := targets, outputs := outputs,
           shortfall := shortfallOf w.demand outputs }

/-- An operation that stands after stage 4 splits the demand, and changes nothing but its own record. -/
theorem exec_splitStages {w : PeriodWork} {s : State} (h : Standing 4 w s) :
    exec (.periodExpiry .shortfall) s
      = .next (s.setSe { s.se with work := some (w.splitUp s.se.prevFront s.se.prevRear) }) := by
  obtain ⟨⟨operating, -⟩, -, -, noTrip⟩ := id h
  have e : stagesUpTo 4 (stageNumber .shortfall) = [.split, .clamp, .transfer, .slew, .shortfall] := by decide
  rw [exec_periodExpiry operating,
    periodExpiry_standing h (by decide) (r := (w.splitUp s.se.prevFront s.se.prevRear, s))]
  rw [e, runStages_cons noTrip, runStages_cons (by exact noTrip), runStages_cons (by exact noTrip),
    runStages_cons (by exact noTrip), runStages_cons (by exact noTrip)]
  rfl

/-- Settles O39: `exec_splitStages` gives the record, the bounds and signs are those of `Within`, and the cases of transfer and slew
are `transferParts_cases` and `slewTo_cases`. -/
theorem periodSplitsDemand : Obligations.PeriodSplitsDemand := by
  intro s w capF capR h share hcapF hcapR
  have caps : w.usedCaps = ⟨capF, capR⟩ := by rw [usedCaps_eq, hcapF, hcapR]
  obtain ⟨parts, hparts⟩ : ∃ p, p = splitParts w.demand w.share := ⟨_, rfl⟩
  obtain ⟨clamped, hclamped⟩ : ∃ c, c = clampParts parts ⟨capF, capR⟩ := ⟨_, rfl⟩
  obtain ⟨targets, htargets⟩ : ∃ t, t = transferParts w.demand parts clamped ⟨capF, capR⟩ w.transfer := ⟨_, rfl⟩
  obtain ⟨outputs, houtputs⟩ : ∃ o, o = slewParts targets s.se.prevFront s.se.prevRear w.slewStep := ⟨_, rfl⟩
  have done : w.splitUp s.se.prevFront s.se.prevRear = { w with
      done := 9, parts := parts, clamped := clamped, targets := targets, outputs := outputs,
      shortfall := shortfallOf w.demand outputs } := by
    rw [houtputs, htargets, hclamped, hparts, PeriodWork.splitUp, caps]
  have sum : parts.front + parts.rear = w.demand := hparts ▸ splitParts_sum _ _
  have part (x : Axle) : Within (parts.get x) w.demand := hparts ▸ splitParts_within w.demand share x
  have clamp (x : Axle) : Within (clamped.get x) (parts.get x) := by
    cases x <;> rw [hclamped] <;> exact clampTo_within _ _
  obtain ⟨front, rear, both, boundF, boundR⟩ : Within targets.front w.demand ∧ Within targets.rear w.demand
      ∧ Within (targets.front + targets.rear) w.demand ∧ targets.front.natAbs ≤ capF ∧ targets.rear.natAbs ≤ capR :=
    transferParts_within ⟨capF, capR⟩ w.transfer share (by rw [htargets, hclamped, hparts])
  have slewF : Within outputs.front targets.front := houtputs ▸ slewTo_within _ _ _
  have slewR : Within outputs.rear targets.rear := houtputs ▸ slewTo_within _ _ _
  have left : Within (shortfallOf w.demand outputs) w.demand := by
    unfold Within shortfallOf at *; omega
  refine ⟨_, parts, clamped, targets, outputs, _, exec_splitStages h, by rw [done]; rfl, by rw [hparts]; rfl, sum,
    fun x => ⟨(part x).natAbs_le, (part x).mul_nonneg, ((clamp x).sub (part x)).mul_nonneg⟩, fun e => ?_, fun e => ?_,
    by rw [hclamped]; rfl, by rw [hclamped]; rfl, fun off => by rw [htargets, transferParts, if_neg off], fun on => ?_,
    boundF, boundR, fun x => ?_, ?_, ?_, left.mul_nonneg, left.natAbs_le, Nat.le_trans slewF.natAbs_le boundF,
    Nat.le_trans slewR.natAbs_le boundR, (slewF.trans front).mul_nonneg, (slewR.trans rear).mul_nonneg, fun zero => ?_,
    fun hF hR x => ?_⟩
  · rw [hparts, e]; exact (splitParts_ends _).1
  · rw [hparts, e]; exact (splitParts_ends _).2
  · obtain ⟨neither, both, onlyFront, onlyRear⟩ := transferParts_cases w.demand parts clamped ⟨capF, capR⟩
    rw [on] at htargets
    rw [← htargets] at neither both onlyFront onlyRear
    refine ⟨neither, both, fun hf hr => ?_, fun hf hr => ?_⟩
    · rw [onlyFront hf hr]; exact ⟨rfl, rfl⟩
    · rw [onlyRear hf hr]; exact ⟨rfl, rfl⟩
  · cases x
    · exact ⟨front.mul_nonneg, slewF.natAbs_le, slewF.mul_nonneg⟩
    · exact ⟨rear.mul_nonneg, slewR.natAbs_le, slewR.mul_nonneg⟩
  · rintro x out target prev rfl rfl rfl
    rw [houtputs]
    cases x <;> exact slewTo_cases _ _ _
  · unfold shortfallOf; omega
  · unfold Within at *; omega
  · have := slewF.natAbs_le
    have := slewR.natAbs_le
    cases x <;> simp only [ByAxle.get_front, ByAxle.get_rear] <;> omega

end Sys2Proof.Machine
end

section
/-! Stage 10 of the period operation: the issue to each link (O40). -/

namespace Sys2Proof.Machine

/-! ### The ring -/

theorem keepFour_drop (ring : List RingEntry) (e : RingEntry) :
    keepFour (ring ++ [e]) = (ring ++ [e]).drop (ring.length - 3) := by
  rw [keepFour, List.length_append, List.length_singleton, Nat.add_sub_add_right ring.length 1 3]

theorem keepFour_append (ring : List RingEntry) (e : RingEntry) :
    keepFour (ring ++ [e]) = ring.drop (ring.length - 3) ++ [e] := by
  rw [keepFour_drop, List.drop_append_of_le_length (by omega)]

theorem keepFour_length (ring : List RingEntry) (e : RingEntry) :
    (keepFour (ring ++ [e])).length = min (ring.length + 1) 4 := by
  rw [keepFour_append]
  simp
  omega

theorem clearRingEntry_length (ring : List RingEntry) (seq : Byte) : (clearRingEntry ring seq).length = ring.length :=
  List.length_map _

/-- The last entry has the sequence number of the frame that starts, and takes its values (R106). -/
theorem clearRingEntry_append (ring : List RingEntry) (e : RingEntry) :
    clearRingEntry (ring ++ [e]) e.seq = clearRingEntry ring e.seq ++ [{ e with torque := 0, enable := false }] := by
  simp [clearRingEntry]

theorem clearRingEntry_of_ne {ring : List RingEntry} {seq : Byte} (h : ∀ e ∈ ring, e.seq ≠ seq) :
    clearRingEntry ring seq = ring :=
  (List.map_congr_left fun e m => if_neg (h e m)).trans (List.map_id' ring)

/-! ### The service slot at a start -/

theorem ServiceSlot.atStart_queued {v : ServiceSlot} (h : v.state = .queued) :
    v.atStart = ({ v with state := .sent, sentCount := 1 }, some (v.code, v.argument)) := by simp [atStart, h]

theorem ServiceSlot.atStart_sent {v : ServiceSlot} (h : v.state = .sent) (n : v.sentCount < 16) :
    v.atStart = ({ v with sentCount := v.sentCount + 1 }, some (v.code, v.argument)) := by simp [atStart, h, n]

theorem ServiceSlot.atStart_last {v : ServiceSlot} (h : v.state = .sent) (n : 16 ≤ v.sentCount) :
    v.atStart = ({ v with state := .timedOut }, none) := by simp [atStart, h, Nat.not_lt.2 n]

theorem ServiceSlot.atStart_idle {v : ServiceSlot} (h : v.state = .empty ∨ v.state = .done ∨ v.state = .timedOut) :
    v.atStart = (v, none) := by rcases h with h | h | h <;> simp [atStart, h]

/-- The start times the service out: it has been sent sixteen times (R124). -/
theorem ServiceSlot.timesOut_iff (v : ServiceSlot) :
    (decide (v.state = .sent) && decide (v.atStart.1.state = .timedOut)) = true ↔ v.state = .sent ∧ 16 ≤ v.sentCount := by
  by_cases h : v.state = .sent
  · by_cases n : v.sentCount < 16
    · simp [h, atStart_sent h n, n]
    · simp [h, atStart_last h (Nat.not_lt.1 n), Nat.not_lt.1 n]
  · simp [h]

/-! ### The issue -/

/-- The ring after an issue: the last three entries, then that of the frame formed (R106). -/
def AxleLink.ringAfter (l : AxleLink) (i : Issue) : List RingEntry :=
  keepFour (l.ring ++ [⟨l.frameSeq + 1, i.torque, i.enable, i.period⟩])

/-- A frame formed while the line is busy waits, in the place of one that waits already (R105). -/
theorem takeIssue_busy {x : Axle} {i : Issue} {s : State} {l : AxleLink} (hl : l = s.link.get x)
    (busy : l.inFlight.isSome = true ∨ l.breakSending = true) :
    (takeIssue x i s).link.get x = { l with
      frameSeq := l.frameSeq + 1
      ring := l.ringAfter i
      waiting := some (formFrame l i)
      counters := { l.counters with
        replaced := if l.waiting.isSome then min (l.counters.replaced + 1) 65535 else l.counters.replaced } } := by
  subst hl
  have isBusy : (s.link.get x).lineBusy = true := by simpa [AxleLink.lineBusy] using busy
  unfold takeIssue
  simp only [isBusy]
  cases (s.link.get x).waiting <;> exact ByAxle.get_set_same _ _ _

/-- A frame formed while the line is free starts (R105, R107). -/
theorem takeIssue_free {x : Axle} {i : Issue} {s : State} {l : AxleLink} {armed : Bool} (hl : l = s.link.get x)
    (ha : armed = decide (s.oc.state = .armed)) (flight : l.inFlight = none) (line : l.breakSending = false) :
    (takeIssue x i s).link.get x = { l with
      frameSeq := l.frameSeq + 1
      ring := if i.enable && !armed then clearRingEntry (l.ringAfter i) (l.frameSeq + 1) else l.ringAfter i
      service := l.service.atStart.1
      inFlight := some (fillFrame (formFrame l i) armed l.service.atStart.2 l.ackCode)
      txBits := 0
      lastStarted := some (l.frameSeq + 1)
      counters := { l.counters with
        framesSent := min (l.counters.framesSent + 1) 65535
        serviceTimeouts := if l.service.state = .sent ∧ 16 ≤ l.service.sentCount then
          min (l.counters.serviceTimeouts + 1) 65535 else l.counters.serviceTimeouts } } := by
  subst hl ha
  have free : (s.link.get x).lineBusy = false := by simp [AxleLink.lineBusy, flight, line]
  unfold takeIssue
  simp only [free, Bool.not_false, if_true, startFrame]
  simp only [State.setLink, ByAxle.get_set_same, ← ServiceSlot.timesOut_iff]
  rfl

/-- The issue to one link leaves the other link and Output Control alone. -/
theorem stageIssue_link (w : PeriodWork) (s : State) (x : Axle) :
    (stageIssue w s).2.link.get x = (takeIssue x (w.issue x s.se.periodNumber) s).link.get x := by
  have first := takeIssue_only .front (w.issue .front s.se.periodNumber) s
  have second := takeIssue_only .rear (w.issue .rear s.se.periodNumber)
  cases x with
  | front => exact (second _).link_eq .front (by simp [linkParts])
  | rear =>
    have same : (takeIssue .front (w.issue .front s.se.periodNumber) s).link.get .rear = s.link.get .rear :=
      first.link_eq .rear (by simp [linkParts])
    have oc : (takeIssue .front (w.issue .front s.se.periodNumber) s).oc = s.oc := first.oc_eq (by simp)
    show (takeIssue .rear _ (takeIssue .front _ s)).link.get .rear = _
    generalize takeIssue .front (w.issue .front s.se.periodNumber) s = u at same oc ⊢
    by_cases busy : (s.link.get .rear).inFlight.isSome = true ∨ (s.link.get .rear).breakSending = true
    · rw [takeIssue_busy rfl busy, takeIssue_busy same.symm busy]
    · obtain ⟨flight, line⟩ : (s.link.get .rear).inFlight = none ∧ (s.link.get .rear).breakSending = false := by
        simpa using busy
      rw [takeIssue_free rfl rfl flight line, takeIssue_free same.symm (by rw [oc]) flight line]

/-- The ring after the start of the frame just formed: the entries before it change only where they carry its seq and its enable
flag is cleared (R106, R107). -/
theorem startedRing_eq (l : AxleLink) (i : Issue) (armed : Bool) :
    (if i.enable && !armed then clearRingEntry (l.ringAfter i) (l.frameSeq + 1) else l.ringAfter i)
      = (if i.enable && !armed then clearRingEntry (l.ring.drop (l.ring.length - 3)) (l.frameSeq + 1)
          else l.ring.drop (l.ring.length - 3))
        ++ [⟨l.frameSeq + 1, if i.enable && !armed then 0 else i.torque, i.enable && armed, i.period⟩] := by
  rw [AxleLink.ringAfter, keepFour_append]
  cases enable : i.enable <;> cases armed
  · rfl
  · rfl
  · exact clearRingEntry_append _ ⟨l.frameSeq + 1, i.torque, true, i.period⟩
  · rfl

/-- The older entries of the ring at a start, in the terms of the period's state and of Output Control's (R106, R107). -/
theorem olderEntries_eq (ring : List RingEntry) (seq : Byte) (a b : Prop) [Decidable a] [Decidable b] :
    (if decide a && !decide b then clearRingEntry ring seq else ring)
      = ring.map fun e => if e.seq = seq ∧ a ∧ ¬b then { e with torque := 0, enable := false } else e := by
  by_cases cleared : a ∧ ¬b
  · simp [cleared, clearRingEntry]
  · rw [if_neg (by simpa using cleared)]
    simp [cleared]

/-- Settles O40: both issues by `stageIssue_link`, and on each link the frame waits (`takeIssue_busy`) or starts
(`takeIssue_free`). -/
theorem periodIssuesCommands : Obligations.PeriodIssuesCommands := by
  intro s w h
  have link := stageIssue_link w s
  have only := stageIssue_only w s
  have se : (stageIssue w s).2.se = { s.se with prevFront := w.outputs.front, prevRear := w.outputs.rear } := by
    have kept : (takeIssue .rear (w.issue .rear s.se.periodNumber) (takeIssue .front (w.issue .front s.se.periodNumber) s)).se
        = s.se := ((takeIssue_only .rear _ _).se_eq (by simp)).trans ((takeIssue_only .front _ _).se_eq (by simp))
    exact congrArg (fun v : SplitEngine => { v with prevFront := w.outputs.front, prevRear := w.outputs.rear }) kept
  refine ⟨_, exec_oneStage h (by decide) (by decide), setWork_se se _,
    (only.mono (by simp)).trans ((setSe_only _ _).mono (by simp)), fun x l l' hl hl' => ?_⟩
  replace hl' : l' = _ := hl'.trans (link x)
  by_cases busy : l.inFlight.isSome = true ∨ l.breakSending = true
  · rw [takeIssue_busy hl busy] at hl'
    subst hl'
    exact ⟨rfl, keepFour_length _ _, rfl, fun _ => ⟨rfl, rfl, rfl, rfl, keepFour_drop _ _, rfl⟩,
      fun flight line => by simp [flight, line] at busy⟩
  · obtain ⟨flight, line⟩ : l.inFlight = none ∧ l.breakSending = false := by simpa using busy
    rw [takeIssue_free hl rfl flight line, startedRing_eq] at hl'
    subst hl'
    refine ⟨rfl, ?_, rfl, fun b => absurd b busy, fun _ _ => ⟨_, rfl, rfl, rfl, rfl, ?_, ?_, rfl, rfl, rfl, rfl, ?_, ?_, ?_, rfl,
      fun queued => ?_, fun sent few => ?_, fun sent many => ?_, fun idle => ?_⟩⟩
    · rw [← startedRing_eq]
      split
      · rw [clearRingEntry_length]; exact keepFour_length _ _
      · exact keepFour_length _ _
    · exact (Bool.decide_and _ _).symm
    · show (if (decide (w.periodOc = .armed) && !decide (s.oc.state = .armed)) = true then 0 else w.outputs.get x) = _
      simp
    · exact List.getLast?_concat
    · exact congrArg (· ++ _) (olderEntries_eq _ _ _ _)
    · refine fun distinct => List.dropLast_concat.trans ?_
      rw [clearRingEntry_of_ne fun e m => distinct e (List.mem_of_mem_drop m), ite_self]
    · rw [ServiceSlot.atStart_queued queued]; exact ⟨rfl, rfl⟩
    · rw [ServiceSlot.atStart_sent sent few]; exact ⟨rfl, rfl⟩
    · rw [ServiceSlot.atStart_last sent many]; exact ⟨rfl, rfl⟩
    · rw [ServiceSlot.atStart_idle idle]; exact ⟨rfl, rfl⟩

end Sys2Proof.Machine
end

section
/-! Stages 3 and 4 of the period operation: the shares and the effective caps (O38). -/

namespace Sys2Proof.Machine

/-! ### The point between two values -/

/-- `n` of `m` steps from `a` to `b`, as an integer: not below 0 (R67, R80). -/
theorem between_cast (a b : Nat) {n m : Nat} (h : n ≤ m) (pos : 0 < m) :
    (between a b n m : Int) = a + Int.tdiv (((b : Int) - a) * n) m := by
  have hm : (0 : Int) < m := by omega
  have hn : (n : Int) ≤ m := by omega
  refine Int.toNat_of_nonneg ?_
  rcases Int.le_total 0 ((b : Int) - a) with up | down
  · have := Int.tdiv_nonneg (Int.mul_nonneg up (Int.natCast_nonneg n)) (Int.le_of_lt hm)
    omega
  · have back : Int.tdiv (((b : Int) - a) * n) m = -(((a : Int) - b) * n / m) := by
      rw [← Int.neg_sub, Int.neg_mul, Int.neg_tdiv, Int.tdiv_eq_ediv_of_nonneg (Int.mul_nonneg (by omega) (by omega))]
    have le : ((a : Int) - b) * n / m ≤ a - b := by
      refine Int.ediv_le_of_le_mul hm ?_
      exact Int.mul_le_mul_of_nonneg_left hn (by omega)
    omega

/-- The point between two values is within a bound of both. -/
theorem between_le {a b n m c : Nat} (h : n ≤ m) (pos : 0 < m) (ha : a ≤ c) (hb : b ≤ c) : between a b n m ≤ c := by
  have cast := between_cast a b h pos
  have hm : (0 : Int) < m := by omega
  have hn : (n : Int) ≤ m := by omega
  rcases Int.le_total 0 ((b : Int) - a) with up | down
  · rw [Int.tdiv_eq_ediv_of_nonneg (Int.mul_nonneg up (Int.natCast_nonneg n))] at cast
    have le : ((b : Int) - a) * n / m ≤ b - a := by
      refine Int.ediv_le_of_le_mul hm ?_
      exact Int.mul_le_mul_of_nonneg_left hn up
    omega
  · have := Int.tdiv_nonneg (a := ((a : Int) - b) * n) (b := m) (Int.mul_nonneg (by omega) (by omega)) (Int.le_of_lt hm)
    rw [← Int.neg_sub, Int.neg_mul, Int.neg_tdiv] at cast
    omega

/-! ### Profile fields in range -/

theorem fieldInRange_of_firstBad {p : Profile} (h : p.firstBad = none) {n : Nat} (m : n ∈ fieldNumbers) :
    p.fieldInRange n = true := by
  simpa using List.find?_eq_none.1 h n m

theorem baseShare_le {p : Profile} (h : p.firstBad = none) : p.baseShare ≤ 1000 := by
  simpa [Profile.fieldInRange, Profile.toList, fieldBounds] using fieldInRange_of_firstBad h (n := 0) (by decide)

theorem regenShare_le {p : Profile} (h : p.firstBad = none) : p.regenShare ≤ 1000 := by
  simpa [Profile.fieldInRange, Profile.toList, fieldBounds] using fieldInRange_of_firstBad h (n := 1) (by decide)

/-- The load map points are fields 21 to 29 (R65). -/
theorem loadMap_eq (p : Profile) (i : Nat) : p.loadMap i = p.toList.getD (21 + i) 0 := by
  have tail : [p.map0, p.map1, p.map2, p.map3, p.map4, p.map5, p.map6, p.map7, p.map8] = p.toList.drop 21 := rfl
  rw [Profile.loadMap, tail, List.getD_eq_getElem?_getD, List.getElem?_drop, ← List.getD_eq_getElem?_getD]

/-- The load map points are shares in per mille (R65). -/
theorem loadMap_bounds (n : Nat) {i : Nat} (h : i < 9) : (fieldBounds n).getD (21 + i) (0, 0) = (0, 1000) := by
  have tail : (fieldBounds n).drop 21 = List.replicate 9 (0, 1000) := rfl
  rw [List.getD_eq_getElem?_getD, ← List.getElem?_drop, tail, List.getElem?_replicate_of_lt h, Option.getD_some]

theorem loadMap_le {p : Profile} (h : p.firstBad = none) (i : Nat) : p.loadMap i ≤ 1000 := by
  by_cases inside : i < 9
  · have field : ∀ i < 9, 21 + i ∈ fieldNumbers := by decide
    have range := fieldInRange_of_firstBad h (field i inside)
    rw [Profile.fieldInRange, loadMap_bounds _ inside] at range
    rw [loadMap_eq]
    simpa using range
  · rw [Profile.loadMap, List.getD_eq_getElem?_getD, List.getElem?_eq_none (Nat.not_lt.1 inside), Option.getD_none]
    omega

/-! ### The target share (R67) -/

/-- Between two load map points. -/
theorem loadMapShare_between {p : Profile} {load i g : Nat} (h : load = 400 + 50 * i + g) (pos : 0 < 50 * i + g) (hi : i < 8)
    (hg : g < 50) : loadMapShare p load = between (p.loadMap i) (p.loadMap (i + 1)) g 50 := by
  have index : (load - 400) / 50 = i := by omega
  have rest : load - 400 - 50 * i = g := by omega
  rw [loadMapShare, if_neg (by omega), if_neg (by omega)]
  simp only [index, rest]

theorem targetDrive_le {p : Profile} (h : p.firstBad = none) (load : Nat) (known : Bool) :
    targetDrive p load known ≤ 1000 := by
  unfold targetDrive loadMapShare
  dsimp only
  split
  · split
    · exact loadMap_le h 0
    · split
      · exact loadMap_le h 8
      · exact between_le (by omega) (by decide) (loadMap_le h _) (loadMap_le h _)
  · exact baseShare_le h

/-! ### The period take of the Profile Table (R79, R80) -/

theorem periodTake_still {t : ProfileTable} (h : t.blendRunning = false) (drive regen : Nat) :
    t.periodTake drive regen = { t with lastDrive := drive, lastRegen := regen } := by
  simp [ProfileTable.periodTake, h]

theorem periodTake_blend {t : ProfileTable} (h : t.blendRunning = true) (drive regen : Nat) :
    t.periodTake drive regen = { t with
      blendStep := t.blendStep + 1
      blendRunning := decide (t.blendStep + 1 < t.blendLength)
      lastDrive := between t.startDrive drive (t.blendStep + 1) t.blendLength
      lastRegen := between t.startRegen regen (t.blendStep + 1) t.blendLength } := by
  simp [ProfileTable.periodTake, h]

/-- The shares of a period are at most 1000 (R67, R80). -/
theorem periodTake_le {s : State} (i : SharesInRange s) {drive regen : Nat} (hd : drive ≤ 1000) (hr : regen ≤ 1000) :
    (s.pt.periodTake drive regen).lastDrive ≤ 1000 ∧ (s.pt.periodTake drive regen).lastRegen ≤ 1000 := by
  obtain ⟨-, -, -, startDrive, startRegen, steps⟩ := i
  cases blend : s.pt.blendRunning
  · rw [periodTake_still blend]
    exact ⟨hd, hr⟩
  · have left := steps blend
    rw [periodTake_blend blend]
    exact ⟨between_le left (by omega) startDrive hd, between_le left (by omega) startRegen hr⟩

/-! ### The effective caps (R59) -/

theorem leastLimit_spec (bound : Nat) (limits : List Nat) :
    leastLimit bound limits ≤ bound ∧ (∀ n ∈ limits, leastLimit bound limits ≤ n)
      ∧ (leastLimit bound limits = bound ∨ leastLimit bound limits ∈ limits) := by
  unfold leastLimit
  induction limits generalizing bound with
  | nil => simp
  | cons a rest ih =>
    obtain ⟨least, members, attained⟩ := ih (min bound a)
    rw [List.foldl_cons]
    refine ⟨by omega, fun n m => ?_, ?_⟩
    · rcases List.mem_cons.1 m with rfl | m
      · omega
      · exact members n m
    · rcases attained with attained | attained
      · rw [attained, List.mem_cons]; omega
      · exact .inr (.tail _ attained)

/-- A limit is that of an internal slot or of a host entry for the axle and the direction. -/
theorem mem_limits (t : CapTable) (x : Axle) (d : Direction) (n : Nat) :
    n ∈ t.limits x d ↔ (∃ src v, t.slots.get src x d = some v ∧ n = v.limit)
      ∨ ∃ e ∈ t.pool, e.axle = x ∧ e.dir = d ∧ n = e.limit := by
  have sources (src : InternalSource) : src ∈ [InternalSource.inverter, .link, .slip, .track] := by cases src <;> decide
  unfold CapTable.limits
  rw [List.mem_append]
  refine or_congr ?_ ?_
  · simp only [List.mem_filterMap, sources, true_and, Option.map_eq_some_iff]
    exact exists_congr fun src => exists_congr fun v => and_congr_right fun _ => eq_comm
  · simp only [List.mem_map, List.mem_filter, Bool.and_eq_true, decide_eq_true_eq, and_assoc, @eq_comm _ n]

/-- The effective cap is the least of the profile limit and the limits of all entries (R59). -/
theorem effective_spec (t : CapTable) (limit : Nat) (x : Axle) (d : Direction) :
    t.effective limit x d ≤ limit
      ∧ (∀ src v, t.slots.get src x d = some v → t.effective limit x d ≤ v.limit)
      ∧ (∀ e ∈ t.pool, e.axle = x → e.dir = d → t.effective limit x d ≤ e.limit)
      ∧ (t.effective limit x d = limit
          ∨ (∃ src v, t.slots.get src x d = some v ∧ t.effective limit x d = v.limit)
          ∨ ∃ e ∈ t.pool, e.axle = x ∧ e.dir = d ∧ t.effective limit x d = e.limit) := by
  obtain ⟨least, members, attained⟩ := leastLimit_spec limit (t.limits x d)
  refine ⟨least, fun src v h => members _ ((mem_limits ..).2 (.inl ⟨src, v, h, rfl⟩)),
    fun e m hx hd => members _ ((mem_limits ..).2 (.inr ⟨e, m, hx, hd, rfl⟩)), attained.imp_right (mem_limits ..).1⟩

/-! ### The operation -/

theorem activeProfile_eq {s : State} {p : Profile} (h : (s.pt.slots.get s.pt.active).profile = some p) :
    activeProfile s = p := by simp [activeProfile, h]

/-- An operation that stands after stage 2 takes the shares and the caps. -/
theorem exec_shareStages {w : PeriodWork} {s : State} (h : Standing 2 w s) :
    exec (.periodExpiry .caps) s = .next ((stageShare w s).2.setSe
      { s.se with work := some (stageCaps (stageShare w s).1 (stageShare w s).2).1 }) := by
  obtain ⟨⟨operating, -⟩, -, -, noTrip⟩ := id h
  rw [exec_periodExpiry operating, periodExpiry_standing h (by decide) (r := stageCaps (stageShare w s).1 (stageShare w s).2)]
  · rfl
  · rw [show stagesUpTo 2 (stageNumber .caps) = [.share, .caps] by decide, runStages_cons noTrip,
      runStages_cons (by exact noTrip)]
    rfl

/-- Settles O38: `exec_shareStages` gives the record, the shares are the period take of the Profile Table, and each cap is the least
limit (`effective_spec`). -/
theorem periodTakesSharesAndCaps : Obligations.PeriodTakesSharesAndCaps := by
  intro s w p h shares active
  obtain rfl : activeProfile s = p := activeProfile_eq active
  obtain ⟨⟨profiles, -⟩, -, -, -, -, steps⟩ := id shares
  have inRange : (activeProfile s).firstBad = none := profiles _ _ active
  obtain ⟨target, htarget⟩ : ∃ n, n = targetDrive (activeProfile s) s.di.rearLoad s.di.rearLoadKnown := ⟨_, rfl⟩
  have table : (stageShare w s).2.pt = s.pt.periodTake target (activeProfile s).regenShare := by rw [htarget]; rfl
  have le := periodTake_le shares (htarget ▸ targetDrive_le inRange _ _ : target ≤ 1000) (regenShare_le inRange)
  refine ⟨_, _, target, exec_shareStages h, rfl, ?_, fun unknown => ?_, fun known low => ?_, fun known high => ?_,
    fun i g known at' pos hi hg => ?_, fun still => ?_, fun blend => ?_, rfl, rfl, rfl, rfl, rfl, ?_, ?_, rfl, rfl, rfl, rfl,
    fun x d limit m => ?_⟩
  · exact ((stageShare_only w s).mono (by simp)).trans ((setSe_only _ _).mono (by simp))
  · rw [htarget, unknown]; rfl
  · rw [htarget, known]; simp [targetDrive, loadMapShare, low, Profile.loadMap]
  · rw [htarget, known]; simp [targetDrive, loadMapShare, high, show ¬s.di.rearLoad ≤ 400 by omega, Profile.loadMap]
  · rw [htarget, known, targetDrive, if_pos rfl, loadMapShare_between at' pos hi hg, between_cast _ _ (by omega) (by decide),
      loadMap_eq, loadMap_eq, show 21 + (i + 1) = 22 + i by omega]
    rfl
  · rw [periodTake_still still] at table
    refine ⟨table, ?_⟩
    show (stageShare w s).2.pt.remaining = 0
    rw [table, ProfileTable.remaining, still]
    rfl
  · have left := steps blend
    rw [periodTake_blend blend] at table
    refine ⟨?_, ?_, ?_, ?_⟩
    · simp only [State.setSe_pt, table]
    · show ((stageShare w s).2.pt.lastDrive : Int) = _
      rw [table, ← between_cast _ _ left (by omega)]
    · show ((stageShare w s).2.pt.lastRegen : Int) = _
      rw [table, ← between_cast _ _ left (by omega)]
    · show (stageShare w s).2.pt.remaining = _
      rw [table]
      simp only [ProfileTable.remaining, decide_eq_true_eq]
      split <;> omega
  · show (if w.demand < 0 then (stageShare w s).2.pt.lastRegen else (stageShare w s).2.pt.lastDrive) ≤ 1000
    rw [table]
    split
    · exact le.2
    · exact le.1
  · show (stageShare w s).2.pt.active.val = _
    rw [table]
    cases blend : s.pt.blendRunning
    · rw [periodTake_still blend]
    · rw [periodTake_blend blend]
  · simp only [List.mem_cons, List.not_mem_nil, or_false, Prod.mk.injEq] at m
    obtain ⟨rfl, rfl, rfl⟩ | ⟨rfl, rfl, rfl⟩ | ⟨rfl, rfl, rfl⟩ | ⟨rfl, rfl, rfl⟩ := m <;> exact effective_spec s.ct _ _ _

end Sys2Proof.Machine
end

section
/-! Demand Intake: the order of accepted numbers, and the DEMAND request (O18, O19). -/

namespace Sys2Proof.Machine

/-! ### Accepted numbers -/

/-- Between nonzero numbers the order is that of the distance forward, on a circle of 65535 (R28). -/
theorem laterThan_iff_steps {n mark : Nat} (hn : n ≠ 0) (hm : mark ≠ 0) :
    laterThan n mark = true ↔ 1 ≤ (n + 65535 - mark) % 65535 ∧ (n + 65535 - mark) % 65535 ≤ 32767 := by
  simp [laterThan, hn, hm]

/-- Settles O19: 0 apart, the number of steps is the distance forward of `laterThan_iff_steps`. -/
theorem acceptedNumbersAreOrdered : Obligations.AcceptedNumbersAreOrdered := by
  intro n mark hn hm
  by_cases zero : n = 0
  · simp [laterThan, zero]
  by_cases first : mark = 0
  · simp [laterThan, zero, first]
  rw [laterThan_iff_steps zero first]
  constructor
  · rintro ⟨low, high⟩
    exact ⟨zero, .inr ⟨(n + 65535 - mark) % 65535, low, high, by omega⟩⟩
  · rintro ⟨-, h | ⟨k, low, high, reached⟩⟩
    · contradiction
    · omega

/-! ### The DEMAND request -/

/-- A request of the right length that the request-by-state table refuses (R158, R159). -/
theorem takeRequest_refused {k : RequestKind} {f : HostFrame} {s : State} (h : AtHead f s) (kind : f.kind = k.code)
    (len : k.lengthOk f.payload.length = true) (state : k.refusedByState s.hp.part = true)
    (owner : HostFrame → State → State) :
    takeRequest k owner s = reply f .state k.stateRefusalFields (popRequest s) := by
  obtain ⟨-, noReset, place, head⟩ := h
  obtain ⟨rest, queue⟩ : ∃ rest, s.hp.requestQueue = f :: rest := List.head?_eq_some_iff.1 head
  simp [takeRequest, queue, canTake, noReset, place, kind, Config.transmitPlaces, dispatch, len, popRequest, state]

/-- A DEMAND within its ranges can be refused for its seq alone (R30). -/
theorem demandRefusal_inRange {q : DemandFields} (low : -16000 ≤ q.torque) (high : q.torque ≤ 16000)
    (load : q.loadPresent = true → q.load ≤ 1000) (d : DemandIntake) :
    demandRefusal q d = if d.lastSeq = some q.seq then some .duplicate else none := by
  refine if_neg ?_
  rintro (h | h | ⟨present, h⟩)
  · omega
  · omega
  · exact absurd (load present) (by omega)

/-- A DEMAND refused RANGE changes nothing at Demand Intake (R30). -/
theorem ownerDemand_range {f : HostFrame} {s : State} (h : demandRefusal (readDemand f.payload) s.di = some .range) :
    ownerDemand f s = reply f .range (u16 s.di.acceptedCount) s := by
  simp [ownerDemand, h]

/-- A DEMAND refused DUPLICATE is counted (R30). -/
theorem ownerDemand_duplicate {f : HostFrame} {s : State}
    (h : demandRefusal (readDemand f.payload) s.di = some .duplicate) :
    ownerDemand f s = reply f .duplicate (u16 s.di.acceptedCount)
      (s.setDi { s.di with duplicates := min (s.di.duplicates + 1) 65535 }) := by
  simp [ownerDemand, h, satInc]

/-- A DEMAND that no check refuses is accepted (R31). -/
theorem ownerDemand_accepted {f : HostFrame} {s : State} (h : demandRefusal (readDemand f.payload) s.di = none) :
    ownerDemand f s = reply f .ok (u16 (nextAccepted s.di.acceptedCount)) (s.setDi (s.di.accept (readDemand f.payload))) := by
  simp [ownerDemand, h, DemandIntake.accept]

/-- What acceptance makes of Demand Intake (R31, R32). -/
theorem accept_eq (d : DemandIntake) (q : DemandFields) :
    d.accept q = { d with
      acceptedCount := nextAccepted d.acceptedCount
      pending := some ⟨nextAccepted d.acceptedCount, q.torque⟩
      overwrites := if d.pending.isSome then min (d.overwrites + 1) 65535 else d.overwrites
      lastSeq := some q.seq
      refSpeed := if q.speedPresent then q.speed else d.refSpeed
      refSpeedKnown := d.refSpeedKnown || q.speedPresent
      rearLoad := if q.loadPresent then q.load else d.rearLoad
      rearLoadKnown := d.rearLoadKnown || q.loadPresent } := by
  simp only [DemandIntake.accept, satInc, Bool.or_comm]

/-- Settles O18: the checks of R30 in order (`demandRefusal`), then one equation of `ownerDemand` for each result. -/
theorem demandRefusedOrAccepted : Obligations.DemandRefusedOrAccepted := by
  rintro s f seq torque speed load hasSpeed hasLoad rfl rfl rfl rfl rfl rfl
  have popped := (popRequest_only s).mono (qs := [.di, .tx, .requests]) (by simp)
  have taken (d : DemandIntake) : OnlyChanges [.di, .tx, .requests] s ((popRequest s).setDi d) :=
    popped.trans ((setDi_only _ d).mono (by simp))
  refine ⟨fun head kind len standby => ?_, fun handed => ⟨fun bad => ?_, fun low high load same => ?_,
    fun low high load other => ?_⟩⟩
  · have refused := takeRequest_refused (k := .demand) head kind (by rw [len]; rfl) (by rw [standby]; rfl) ownerDemand
    refine ⟨reply f .state [0#8, 0#8] (popRequest s), ?_, answered_reply (.refl [] _) (by simp) (by simp) _ _, ?_⟩
    · show inOperation (takeRequest .demand ownerDemand) s = _
      rw [inOperation, if_neg (by simp [head.1]), refused]
      rfl
    · exact reply_mono (by simp) _ _ _ ((popRequest_only s).mono (by simp))
  · refine ⟨_, (inOperation_handed handed _).trans (congrArg _ (ownerDemand_range ?_)),
      answered_reply (.refl [] _) (by simp) (by simp) _ _, reply_mono (by simp) _ _ _ ((popRequest_only s).mono (by simp))⟩
    exact if_pos bad
  · refine ⟨_, (inOperation_handed handed _).trans (congrArg _ (ownerDemand_duplicate ?_)),
      answered_reply (setDi_only _ _) (by simp) (by simp) _ _, ?_, reply_mono (by simp) _ _ _ (taken _)⟩
    · exact (demandRefusal_inRange low high load _).trans (if_pos same)
    · exact (reply_only _ _ _ _).di_eq (by simp)
  · refine ⟨_, _, (inOperation_handed handed _).trans (congrArg _ (ownerDemand_accepted ?_)), rfl,
      answered_reply (setDi_only _ _) (by simp) (by simp) _ _, ?_, reply_mono (by simp) _ _ _ (taken _)⟩
    · exact (demandRefusal_inRange low high load _).trans (if_neg other)
    · exact ((reply_only _ _ _ _).di_eq (by simp)).trans (accept_eq _ _)

end Sys2Proof.Machine
end
section
/-! Stage 1 of the period operation: the demand take, and what it passes to the Fault Unit and the Slip Monitors (O34). -/

namespace Sys2Proof.Machine

/-! ### Signals that latch nothing -/

/-- What a FAULT NOTICE goes by stands in every record: latched, mask and count (R143, R146). -/
def LatchesStand (s t : State) : Prop :=
  ∀ c, (faultRecord c t).latched = (faultRecord c s).latched ∧ (faultRecord c t).masked = (faultRecord c s).masked
    ∧ (faultRecord c t).count = (faultRecord c s).count

theorem LatchesStand.of_fu {s t : State} (h : t.fu = s.fu) : LatchesStand s t := fun c => by
  simp [faultRecord_of_fu h c]

theorem LatchesStand.trans {s t u : State} (h : LatchesStand s t) (k : LatchesStand t u) : LatchesStand s u := fun c => by
  obtain ⟨latched, masked, count⟩ := h c
  obtain ⟨latched', masked', count'⟩ := k c
  exact ⟨latched'.trans latched, masked'.trans masked, count'.trans count⟩

theorem latchesStand_signalReporting_off (c : FaultCode) (s : State) :
    LatchesStand s (signalReporting c (.live false) s) := fun d => by
  rw [faultRecord_signalReporting]
  by_cases same : d = c
  · simp [same, FaultRecord.take_live_off]
  · simp [same]

/-- What sends nothing and latches nothing leaves the notices that are due, and what has become of them. -/
theorem NoticesSent.quiet {rest : List HostFrame} {ps : List Part} {s t u : State} (h : NoticesSent rest s t)
    (only : OnlyChanges ps t u) (latches : LatchesStand t u)
    (n : ∀ p ∈ [Part.tx, .skips, .params], p ∉ ps := by simp) : NoticesSent rest s u := by
  have due : noticesDue s u = noticesDue s t := by
    simp only [noticesDue, (latches _).1, (latches _).2.1, only.params_eq (n _ (by simp))]
  have notice (c : FaultCode) : noticeOf c u = noticeOf c t := by simp only [noticeOf, (latches c).2.2]
  unfold NoticesSent
  simp only [due, notice, only.outbox_eq (n .tx (by simp)), only.noticeSkips_eq (n .skips (by simp)),
    only.reportSkips_eq (n .skips (by simp))]
  exact h

theorem noticesSent_self (s : State) : NoticesSent [] s s := by simp [NoticesSent, noticesDue_self]

/-! ### The monitored direction at the Slip Monitors -/

theorem setSm_setSm (s : State) (x : Axle) (v w : SlipMonitor) : (s.setSm x v).setSm x w = s.setSm x w := by
  cases x <;> rfl

theorem setSm_get (s : State) (x : Axle) (v : SlipMonitor) : (s.setSm x v).sm.get x = v := ByAxle.get_set_same _ _ _

theorem smRelease_sm (x : Axle) (d : Direction) (s : State) :
    (smRelease x d s).sm.get x = { s.sm.get x with state := .grip, run := 0, cap := none, live := false } := by
  unfold smRelease
  dsimp only
  rw [signalReporting_sm, withdrawInternal_eq_setSlot (by decide)]
  exact setSm_get _ _ _

/-- What a Slip Monitor can do as it takes a direction: it writes its own record, and may first release its cap; either way the
direction is the one it monitors (R86, R94). -/
theorem smDirection_cases {P : State → Prop} (x : Axle) (z : Int) (s : State)
    (write : ∀ v : SlipMonitor, v.monitored = z → P (s.setSm x v))
    (release : ∀ (d : Direction) (v w : SlipMonitor), w.monitored = z → P ((smRelease x d (s.setSm x v)).setSm x w)) :
    P (smDirection x z s) := by
  have same {v : SlipMonitor} (h : v.monitored = z) (w : SlipMonitor) (k : w.monitored = v.monitored) :
      P ((s.setSm x v).setSm x w) := by rw [setSm_setSm]; exact write w (k.trans h)
  unfold smDirection
  dsimp only
  split
  · exact write _ rfl
  · exact same rfl _ (by rw [setSm_get])
  · split
    · exact write _ rfl
    · unfold smDirectionChange
      rw [setSm_get]
      split
      · exact same rfl _ (by rw [setSm_get])
      · rw [setSm_setSm]
        exact same rfl _ (by rw [setSm_get])
      · exact release _ _ _ (by rw [smRelease_sm, setSm_get])
      · exact release _ _ _ (by rw [smRelease_sm, setSm_get])

theorem smDirection_monitored (x : Axle) (z : Int) (s : State) : ((smDirection x z s).sm.get x).monitored = z := by
  refine smDirection_cases (P := fun t => (t.sm.get x).monitored = z) x z s (fun v h => ?_) fun d v w h => ?_ <;>
    · rw [setSm_get]
      exact h

theorem smRelease_quiet (x : Axle) (d : Direction) (s : State) : OnlyChanges [.sm x, .slots, .fu] s (smRelease x d s) :=
  (((withdrawInternal_quiet _ _ _ _).mono (by simp)).trans ((setSm_only _ _ _).mono (by simp))).trans
    ((signalReporting_off_only _ _).mono (by simp))

theorem smRelease_latches (x : Axle) (d : Direction) (s : State) : LatchesStand s (smRelease x d s) := by
  refine .trans (.of_fu ?_) (latchesStand_signalReporting_off _ _)
  rw [withdrawInternal_eq_setSlot (by decide)]
  rfl

theorem smRelease_onlyFaults (x : Axle) (d : Direction) (s : State) : OnlyFaults [slipFault x] s (smRelease x d s) := by
  refine .trans (fun c _ => ?_) (onlyFaults_signalReporting _ _ _)
  exact faultRecord_withdraw (by decide) x d c s

/-- A Slip Monitor that takes a direction sends nothing (R86, R94). -/
theorem smDirection_quiet (x : Axle) (z : Int) (s : State) : OnlyChanges [.sm x, .slots, .fu] s (smDirection x z s) := by
  have sets (t : State) (v : SlipMonitor) : OnlyChanges [.sm x, .slots, .fu] t (t.setSm x v) :=
    (setSm_only t x v).mono (by simp)
  exact smDirection_cases x z s (fun v _ => sets s v) fun d v w _ => ((sets s v).trans (smRelease_quiet x d _)).trans (sets _ w)

theorem smDirection_latches (x : Axle) (z : Int) (s : State) : LatchesStand s (smDirection x z s) :=
  smDirection_cases x z s (fun _ _ => .of_fu rfl) fun d v _ _ =>
    ((LatchesStand.of_fu (t := s.setSm x v) rfl).trans (smRelease_latches x d _)).trans (.of_fu rfl)

theorem smDirection_onlyFaults (x : Axle) (z : Int) (s : State) : OnlyFaults [slipFault x] s (smDirection x z s) :=
  smDirection_cases x z s (fun _ _ _ _ => rfl) fun d v _ _ => smRelease_onlyFaults x d (s.setSm x v)

/-- SE passes the monitored direction to both Slip Monitors, the last part of stage 1 (R86). -/
def passDirection (z : Int) (s : State) : State := smDirection .rear z (smDirection .front z s)

theorem passDirection_quiet (z : Int) (s : State) :
    OnlyChanges [.sm .front, .sm .rear, .slots, .fu] s (passDirection z s) :=
  (smDirection_quiet .front z s).seq (smDirection_quiet .rear z _) (by simp) (by simp)

theorem passDirection_latches (z : Int) (s : State) : LatchesStand s (passDirection z s) :=
  (smDirection_latches .front z s).trans (smDirection_latches .rear z _)

theorem passDirection_onlyFaults (z : Int) (s : State) : OnlyFaults [.slipF, .slipR] s (passDirection z s) :=
  ((smDirection_onlyFaults .front z s).mono (by simp [slipFault])).trans
    ((smDirection_onlyFaults .rear z _).mono (by simp [slipFault]))

theorem passDirection_monitored (z : Int) (s : State) (x : Axle) : ((passDirection z s).sm.get x).monitored = z := by
  cases x with
  | front =>
    show ((smDirection .rear z (smDirection .front z s)).sm.get .front).monitored = z
    rw [(smDirection_quiet .rear z _).sm_eq .front (by simp), smDirection_monitored]
  | rear => exact smDirection_monitored .rear z _

/-! ### The check of the stale limit -/

/-- DI checks the stale limit after the demand take, the middle part of stage 1 (R38). -/
def staleCheck (s : State) : State := if staleNow s then signalStale s else s

theorem staleCheck_now {s : State} (h : staleNow s = true) : staleCheck s = signalStale s := if_pos h

theorem staleCheck_idle {s : State} (h : staleNow s = false) : staleCheck s = s := if_neg (by simp [h])

/-- DEMAND_STALE is signalled as an event, after DI has set its mark (R38, R39). -/
theorem signalStale_eq (s : State) :
    signalStale s = signalReporting .demandStale .event (drawFree (s.setDi { s.di with staleSignalled := true })) := rfl

theorem signalStale_di (s : State) : (signalStale s).di = { s.di with staleSignalled := true } := by
  rw [signalStale_eq, signalReporting_di]
  rfl

theorem signalStale_event (s : State) : EventTaken .demandStale s (signalStale s) :=
  eventTaken_signalReporting .demandStale (drawFree (s.setDi { s.di with staleSignalled := true }))

theorem staleCheck_di (s : State) :
    (staleCheck s).di = { s.di with staleSignalled := s.di.staleSignalled || staleNow s } := by
  cases h : staleNow s
  · rw [staleCheck_idle h, Bool.or_false]
  · rw [staleCheck_now h, signalStale_di, Bool.or_true]

theorem staleCheck_onlyFaults (s : State) : OnlyFaults [.demandStale] s (staleCheck s) := by
  cases h : staleNow s
  · rw [staleCheck_idle h]
    exact .refl _ _
  · rw [staleCheck_now h]
    exact onlyFaults_signalReporting .demandStale .event (drawFree (s.setDi { s.di with staleSignalled := true }))

theorem staleCheck_notices (s : State) : NoticesSent [] s (staleCheck s) := by
  cases h : staleNow s
  · rw [staleCheck_idle h]
    exact noticesSent_self s
  · rw [staleCheck_now h]
    exact noticesSent_take .demandStale .event (drawFree (s.setDi { s.di with staleSignalled := true }))

/-! ### The demand take -/

theorem takeRecords_pending {d : DemandIntake} {r : PendingDemand} (h : d.pending = some r) :
    d.takeRecords = { d with pending := none, current := some ⟨r.number, r.torque, 0⟩, staleSignalled := false } := by
  simp [DemandIntake.takeRecords, h]

theorem takeRecords_aged {d : DemandIntake} (h : d.pending = none) :
    d.takeRecords = { d with current := d.current.map fun r => { r with age := min (r.age + 1) 65535 } } := by
  simp [DemandIntake.takeRecords, h, satInc]

theorem takeRecords_eq (d : DemandIntake) :
    d.takeRecords = { d with pending := none, current := d.takeRecords.current,
                             staleSignalled := d.takeRecords.staleSignalled } := by
  cases h : d.pending with
  | none => rw [takeRecords_aged h, ← h]
  | some r => rw [takeRecords_pending h]

/-- DI after the demand take: its records, and the held demand formed from the current one (R34, R35, R36). -/
theorem demandTake_di {s : State} {p : Profile} (active : (s.pt.slots.get s.pt.active).profile = some p) :
    (demandTake s).di = { s.di with
      pending := none
      current := s.di.takeRecords.current
      staleSignalled := s.di.takeRecords.staleSignalled
      prevHeld := heldDemand s.di.takeRecords.current p.demandHold p.decayStep s.di.prevHeld } := by
  show { s.di.takeRecords with
    prevHeld := heldDemand s.di.takeRecords.current (activeProfile s).demandHold (activeProfile s).decayStep
      s.di.takeRecords.prevHeld } = _
  rw [activeProfile_eq active, takeRecords_eq]

/-- Within the hold the held demand is the record's torque (R35). -/
theorem heldDemand_hold {r : CurrentDemand} {hold : Nat} (h : r.age ≤ hold) (decay : Nat) (prev : Int) :
    heldDemand (some r) hold decay prev = r.torque := if_pos h

/-- Past the hold it moves toward 0 and stops there (R35). -/
theorem heldDemand_decay {r : CurrentDemand} {hold : Nat} (h : hold < r.age) (decay : Nat) (prev : Int) :
    (0 < prev → heldDemand (some r) hold decay prev = max 0 (prev - decay))
      ∧ (prev < 0 → heldDemand (some r) hold decay prev = min 0 (prev + decay))
      ∧ (prev = 0 → heldDemand (some r) hold decay prev = 0) := by
  have past : ¬r.age ≤ hold := Nat.not_le.2 h
  refine ⟨fun pos => ?_, fun neg => ?_, fun zero => ?_⟩
  · simp [heldDemand, past, pos]
  · simp [heldDemand, past, neg, Int.not_lt.2 (Int.le_of_lt neg)]
  · simp [heldDemand, past, zero]

/-! ### The stage -/

/-- Stage 1: the demand take, the check of the stale limit, and the direction passed to the Slip Monitors (R34 to R38, R86). -/
theorem stageDemand_eq (w : PeriodWork) (s : State) :
    stageDemand w s
      = ({ w with
            done := 1
            held := (demandTake s).di.prevHeld
            accepted := ((demandTake s).di.current.map CurrentDemand.number).getD 0
            staleTripAt := if staleNow (demandTake s) then some (staleTripStage (demandTake s)) else none },
         passDirection (Int.sign (demandTake s).di.prevHeld) (staleCheck (demandTake s))) := rfl

section
variable (w : PeriodWork) (s : State)

theorem stageDemand_di :
    (stageDemand w s).2.di
      = { (demandTake s).di with staleSignalled := (demandTake s).di.staleSignalled || staleNow (demandTake s) } := by
  rw [stageDemand_eq, (passDirection_quiet _ _).di_eq (by simp), staleCheck_di]

theorem stageDemand_onlyFaults : OnlyFaults [.demandStale, .slipF, .slipR] s (stageDemand w s).2 := by
  have take : OnlyFaults [.demandStale, .slipF, .slipR] s (demandTake s) := fun _ _ => rfl
  exact (take.trans ((staleCheck_onlyFaults _).mono (by simp))).trans ((passDirection_onlyFaults _ _).mono (by simp))

theorem stageDemand_notices : NoticesSent [] s (stageDemand w s).2 :=
  NoticesSent.quiet (s := demandTake s) (staleCheck_notices _) (passDirection_quiet _ _) (passDirection_latches _ _)

theorem faultRecord_demandStale_stageDemand :
    faultRecord .demandStale (stageDemand w s).2 = faultRecord .demandStale (staleCheck (demandTake s)) :=
  passDirection_onlyFaults _ _ _ (by simp)
end

/-- The state after the stage 1 that begins an operation. -/
def afterStage1 (s : State) : State := (stageDemand .start (beginPeriod s)).2

/-- An expiry taken through stage 1 is that stage of an operation that begins (R3, R4). -/
theorem exec_stage1 {s : State} (due : PeriodDue s) :
    exec (.periodExpiry .demand) s = .next ((afterStage1 s).setSe
      { s.se with periodNumber := (s.se.periodNumber + 1) % 2 ^ 32, timerUs := 0,
                  work := some (stageDemand .start (beginPeriod s)).1 }) := by
  have se : (afterStage1 s).se = (beginPeriod s).se := (stageDemand_only _ _).se_eq (by simp)
  rw [exec_periodExpiry due.1.1, periodExpiry_due due]
  show Host.Outcome.next ((afterStage1 s).setSe { (afterStage1 s).se with work := _ }) = _
  rw [se]
  rfl

theorem afterStage1_di {s : State} {p : Profile} (active : (s.pt.slots.get s.pt.active).profile = some p) :
    (afterStage1 s).di = { s.di with
      pending := none
      current := s.di.takeRecords.current
      staleSignalled := s.di.takeRecords.staleSignalled || staleNow (demandTake (beginPeriod s))
      prevHeld := heldDemand s.di.takeRecords.current p.demandHold p.decayStep s.di.prevHeld } := by
  rw [afterStage1, stageDemand_di, demandTake_di (s := beginPeriod s) active]
  rfl

/-- Settles O34: stage 1 is the demand take (`afterStage1_di`, with `takeRecords` and `heldDemand` case by case), a check that
only marks the record, and `passDirection`. -/
theorem periodTakesDemand : Obligations.PeriodTakesDemand := by
  intro s p due active
  have di := afterStage1_di active
  obtain ⟨cur, hcur⟩ : ∃ cur, cur = s.di.takeRecords.current := ⟨_, rfl⟩
  have current : (afterStage1 s).di.current = cur := by rw [di, hcur]
  have held : (afterStage1 s).di.prevHeld = heldDemand cur p.demandHold p.decayStep s.di.prevHeld := by
    rw [di, hcur]
  have wHeld : (stageDemand .start (beginPeriod s)).1.held = (afterStage1 s).di.prevHeld := by
    rw [afterStage1, stageDemand_di]; rfl
  have wAccepted : (stageDemand .start (beginPeriod s)).1.accepted = (cur.map CurrentDemand.number).getD 0 := by
    rw [stageDemand_eq, demandTake_di (s := beginPeriod s) active, hcur]; rfl
  refine ⟨_, _, exec_stage1 due, rfl, rfl, wHeld, fun empty => ?_, fun r is => ?_, ?_, fun r pending => ?_, fun idle => ?_,
    fun empty => ?_, fun r is => ?_, fun x => ?_, ?_, ?_, ?_⟩
  · rw [wAccepted, ← current]
    exact congrArg (fun c => (Option.map CurrentDemand.number c).getD 0) empty
  · rw [wAccepted, ← current]
    exact congrArg (fun c => (Option.map CurrentDemand.number c).getD 0) is
  · show (afterStage1 s).di = { s.di with
      pending := none, current := (afterStage1 s).di.current, staleSignalled := (afterStage1 s).di.staleSignalled,
      prevHeld := (afterStage1 s).di.prevHeld }
    rw [di]
  · exact current.trans (by rw [hcur, takeRecords_pending pending])
  · have aged : (afterStage1 s).di.current = _ := current.trans (hcur.trans (by rw [takeRecords_aged idle]))
    exact ⟨fun r is => aged.trans (by rw [is]; rfl), fun empty => aged.trans (by rw [empty]; rfl)⟩
  · exact held.trans (by rw [← current, show (afterStage1 s).di.current = _ from empty]; rfl)
  · have formed : (afterStage1 s).di.prevHeld = heldDemand (some r) p.demandHold p.decayStep s.di.prevHeld :=
      held.trans (by rw [← current, show (afterStage1 s).di.current = _ from is])
    refine ⟨fun hold => formed.trans (heldDemand_hold hold _ _), fun past => ?_⟩
    obtain ⟨pos, neg, zero⟩ := heldDemand_decay past p.decayStep s.di.prevHeld
    exact ⟨fun h => formed.trans (pos h), fun h => formed.trans (neg h), fun h => formed.trans (zero h)⟩
  · show ((afterStage1 s).sm.get x).monitored = Int.sign (afterStage1 s).di.prevHeld
    rw [afterStage1, stageDemand_di]
    exact passDirection_monitored _ _ x
  · exact stageDemand_onlyFaults .start (beginPeriod s)
  · exact stageDemand_notices .start (beginPeriod s)
  · exact (((setSe_only _ _).mono (by simp)).trans ((stageDemand_only .start (beginPeriod s)).mono (by simp))).trans
      ((setSe_only _ _).mono (by simp))

end Sys2Proof.Machine
end
section
/-! The stale limit, and the trip that DEMAND_STALE brings before the operation has ended (O36). -/

namespace Sys2Proof.Machine

/-! ### The conditions of DEMAND_STALE -/

/-- The stale limit is the least age that covers the timeout (R37). -/
theorem staleLimit_le_iff {periodUs : Nat} (pos : 0 < periodUs) (timeoutMs age : Nat) :
    staleLimit timeoutMs periodUs ≤ age ↔ timeoutMs * 1000 ≤ age * periodUs := by
  rw [staleLimit, Nat.div_le_iff_le_mul_add_pred pos, Nat.mul_comm periodUs]
  omega

theorem staleNow_iff {s : State} (pos : 0 < s.hp.params.splitPeriodUs) :
    staleNow s = true ↔ s.oc.state = .armed ∧ s.di.staleSignalled = false
      ∧ ∃ r, s.di.current = some r ∧ s.hp.params.demandTimeoutMs * 1000 ≤ r.age * s.hp.params.splitPeriodUs := by
  unfold staleNow
  cases h : s.di.current with
  | none => simp
  | some r =>
    simp only [Bool.and_eq_true, decide_eq_true_eq, Bool.not_eq_true', staleLimit_le_iff pos, Option.some.injEq,
      exists_eq_left']
    exact ⟨fun ⟨⟨reached, armed⟩, unmarked⟩ => ⟨armed, unmarked, reached⟩,
      fun ⟨armed, unmarked, reached⟩ => ⟨⟨reached, armed⟩, unmarked⟩⟩

/-- An unmarked record that reaches the limit as it ages is stale at the demand take of an ARMED part (R34, R38). -/
theorem staleNow_aged {s : State} {r : CurrentDemand} (pos : 0 < s.hp.params.splitPeriodUs) (armed : s.oc.state = .armed)
    (idle : s.di.pending = none) (current : s.di.current = some r) (unmarked : s.di.staleSignalled = false)
    (reached : s.hp.params.demandTimeoutMs * 1000 ≤ min (r.age + 1) 65535 * s.hp.params.splitPeriodUs) :
    staleNow (demandTake s) = true := by
  have aged := takeRecords_aged idle
  refine (staleNow_iff (s := demandTake s) pos).2
    ⟨armed, ?_, { r with age := min (r.age + 1) 65535 }, ?_, reached⟩
  · exact (congrArg DemandIntake.staleSignalled aged).trans unmarked
  · exact (congrArg DemandIntake.current aged).trans (by simp [current])

/-- Nothing is stale where OC is not ARMED, the record is marked, there is none, or its age is below the limit (R38). -/
theorem staleNow_not {s : State} (pos : 0 < s.hp.params.splitPeriodUs)
    (h : s.oc.state ≠ .armed ∨ (s.di.pending = none ∧ s.di.staleSignalled = true) ∨ (demandTake s).di.current = none
      ∨ ∃ r, (demandTake s).di.current = some r
        ∧ r.age * s.hp.params.splitPeriodUs < s.hp.params.demandTimeoutMs * 1000) :
    staleNow (demandTake s) = false := by
  refine Bool.eq_false_iff.2 fun stale => ?_
  obtain ⟨armed, unmarked, r, current, reached⟩ := (staleNow_iff (s := demandTake s) pos).1 stale
  rcases h with other | ⟨idle, marked⟩ | empty | ⟨r', current', short⟩
  · exact other armed
  · have mark : s.di.takeRecords.staleSignalled = s.di.staleSignalled := by rw [takeRecords_aged idle]
    exact absurd (marked.symm.trans (mark.symm.trans unmarked)) (by decide)
  · exact absurd (empty.symm.trans current) nofun
  · obtain rfl : r' = r := Option.some.inj (current'.symm.trans current)
    exact absurd reached (Nat.not_le.2 short)

/-- The current record that stage 1 leaves is that of its demand take. -/
theorem afterStage1_current (s : State) : (afterStage1 s).di.current = (demandTake (beginPeriod s)).di.current := by
  rw [afterStage1, stageDemand_di]

/-! ### Output Control and the lines through the stages -/

/-- Outside ARMING no stage changes Output Control (R132). -/
theorem runStage_oc {s : State} (h : s.oc.state ≠ .arming) (t : Stage) (w : PeriodWork) : (runStage t w s).2.oc = s.oc := by
  cases t with
  | demand => exact (stageDemand_only w s).oc_eq (by simp)
  | outputState => exact congrArg State.oc (demandNotice_idle (.inl h))
  | share | caps | split | clamp | transfer | slew | shortfall => rfl
  | issue => exact (stageIssue_only w s).oc_eq (by simp)
  | monitor => exact (stageMonitor_only w s).oc_eq (by simp)
  | report => exact (stageReport_only w s).oc_eq (by simp)

/-- The link sends a torque-off break and has no frame in flight (R110). -/
def LineBroken (x : Axle) (s : State) : Prop := (s.link.get x).breakSending = true ∧ (s.link.get x).inFlight = none

theorem LineBroken.of_only {ps : List Part} {x : Axle} {s t : State} (h : LineBroken x s) (only : OnlyChanges ps s t)
    (n : Part.line x ∉ ps) : LineBroken x t := by
  obtain ⟨flight, -, -, brk, -⟩ := only (.line x) n
  exact ⟨brk.trans h.1, flight.trans h.2⟩

/-- While the break is sent no stage puts a frame on the line: what stage 10 forms waits (R105, R110). -/
theorem LineBroken.after_stage {x : Axle} {s : State} (h : LineBroken x s) (t : Stage) (w : PeriodWork) :
    LineBroken x (runStage t w s).2 := by
  cases t with
  | demand => exact h.of_only (stageDemand_only w s) (by simp)
  | outputState => exact h.of_only (stageOutputState_only w s) (by simp)
  | share | caps | split | clamp | transfer | slew | shortfall => exact h
  | issue =>
    show LineBroken x (stageIssue w s).2
    rw [LineBroken, stageIssue_link, takeIssue_busy rfl (.inr h.1)]
    exact h
  | monitor => exact h.of_only (stageMonitor_only w s) (by simp)
  | report => exact h.of_only (stageReport_only w s) (by simp)

/-! ### The trip -/

/-- Output Control is TRIPPED by DEMAND_STALE in this period, and both lines are low (R39, R110, R136). -/
structure StaleTripped (period : Nat) (s : State) : Prop where
  state : s.oc.state = .tripped
  enF : s.oc.enF = false
  enR : s.oc.enR = false
  record : s.oc.tripRecord = some ⟨.fault .demandStale, period⟩
  lines : ∀ x, LineBroken x s

/-- The trip of a DEMAND_STALE is under way to an ARMED part: OC takes it before stage `n` (R39). -/
structure StaleTripDue (n period : Nat) (w : PeriodWork) (s : State) : Prop where
  due : w.staleTripAt = some n
  part : s.hp.part = .ready
  armed : s.oc.state = .armed
  number : s.se.periodNumber = period

/-- A trip out of ARMED (R110, R128, R136). -/
theorem StaleTripDue.taken {n period : Nat} {w : PeriodWork} {s : State} (h : StaleTripDue n period w s) :
    StaleTripped period (takeStaleTrip n w s).2 := by
  have ready : s.hp.part ≠ .standby := by rw [h.part]; decide
  have oc : (trip (.fault .demandStale) s).oc = { s.oc with
      state := .tripped, tripRecord := some ⟨.fault .demandStale, period⟩, enF := false, enR := false } := by
    rw [trip_oc, if_neg ready, tripOc, h.armed, h.number]
  have link := trip_link ready (by rw [h.armed]; decide) (.fault .demandStale)
  rw [takeStaleTrip, if_pos h.due]
  exact ⟨by rw [oc], by rw [oc], by rw [oc], by rw [oc], fun x => by rw [LineBroken, link]; exact ⟨rfl, rfl⟩⟩

theorem StaleTripDue.takeStaleTrip_of_ne {n m period : Nat} {w : PeriodWork} {s : State} (h : StaleTripDue n period w s)
    (other : n ≠ m) : takeStaleTrip m w s = (w, s) := by
  simp [takeStaleTrip, h.due, other]

theorem staleTripAt_runStage {t : Stage} (h : t ≠ .demand) (w : PeriodWork) (s : State) :
    (runStage t w s).1.staleTripAt = w.staleTripAt := by
  cases t with
  | demand => contradiction
  | outputState | share | caps | split | clamp | transfer | slew | shortfall | issue | monitor | report => rfl

/-- Stages after the first leave the trip under way. -/
theorem StaleTripDue.after_stage {n period : Nat} {w : PeriodWork} {s : State} (h : StaleTripDue n period w s) {t : Stage}
    (later : t ≠ .demand) : StaleTripDue n period (runStage t w s).1 (runStage t w s).2 where
  due := (staleTripAt_runStage later w s).trans h.due
  part := ((runStage_only t w s).part_eq (by simp [periodParts, tripParts])).trans h.part
  armed := (congrArg OutputControl.state (runStage_oc (by rw [h.armed]; decide) t w)).trans h.armed
  number := (runStage_periodNumber t w s).trans h.number

theorem StaleTripped.no_second_trip {period : Nat} {s : State} (h : StaleTripped period s) (n : Nat) (w : PeriodWork) :
    StaleTripped period (takeStaleTrip n w s).2 := by
  unfold takeStaleTrip
  split
  · show StaleTripped period (trip _ s)
    rwa [trip_tripped h.state]
  · exact h

theorem StaleTripped.after_stage {period : Nat} {s : State} (h : StaleTripped period s) (t : Stage) (w : PeriodWork) :
    StaleTripped period (runStage t w s).2 := by
  have oc := runStage_oc (by rw [h.state]; decide) t w
  exact ⟨by rw [oc, h.state], by rw [oc, h.enF], by rw [oc, h.enR], by rw [oc, h.record],
    fun x => (h.lines x).after_stage t w⟩

theorem StaleTripped.after_stages {period : Nat} {s : State} (h : StaleTripped period s) (ts : List Stage) (w : PeriodWork) :
    StaleTripped period (runStages ts w s).2 := by
  induction ts generalizing w s with
  | nil => exact h
  | cons t rest ih => exact ih ((h.no_second_trip _ w).after_stage t _) _

/-- OC takes the trip before its stage, where that is among those that run; otherwise it is still under way after them. -/
theorem StaleTripDue.after_stages {n period : Nat} {w : PeriodWork} {s : State} (h : StaleTripDue n period w s) (ts : List Stage)
    (later : .demand ∉ ts) :
    (n ∈ ts.map stageNumber → StaleTripped period (runStages ts w s).2)
      ∧ (n ∉ ts.map stageNumber → StaleTripDue n period (runStages ts w s).1 (runStages ts w s).2) := by
  induction ts generalizing w s with
  | nil => exact ⟨fun m => by simp at m, fun _ => h⟩
  | cons t rest ih =>
    obtain ⟨first, others⟩ : .demand ≠ t ∧ .demand ∉ rest := by simpa using later
    by_cases now : n = stageNumber t
    · subst now
      exact ⟨fun _ => (h.taken.after_stage t _).after_stages rest _, fun m => absurd (by simp) m⟩
    · have next := ih (h.after_stage (Ne.symm first)) others
      rw [runStages, h.takeStaleTrip_of_ne now]
      simpa [now] using next

/-- The stages after the first have the numbers 2 to 12 (R4). -/
theorem mem_laterStages (n : Nat) : n ∈ (stagesUpTo 1 12).map stageNumber ↔ 2 ≤ n ∧ n ≤ 12 := by
  rw [show (stagesUpTo 1 12).map stageNumber = [2, 3, 4, 5, 6, 7, 8, 9, 10, 11, 12] by decide]
  simp only [List.mem_cons, List.not_mem_nil, or_false]
  omega

/-- Whichever stage takes the trip first, it has been taken when the operation ends (R39). -/
theorem StaleTripDue.tripped_at_end {n period : Nat} {w : PeriodWork} {s : State} (h : StaleTripDue n period w s)
    (low : 2 ≤ n) (high : n ≤ 13) :
    StaleTripped period (takeStaleTrip 13 (runStages (stagesUpTo 1 12) w s).1 (runStages (stagesUpTo 1 12) w s).2).2 := by
  obtain ⟨inside, after⟩ := h.after_stages (stagesUpTo 1 12) (by decide)
  rw [mem_laterStages] at inside after
  by_cases last : n = 13
  · subst last
    exact (after (by omega)).taken
  · exact (inside (by omega)).no_second_trip _ _

/-- Stage 1 of an ARMED part that signals DEMAND_STALE leaves its trip under way (R38, R39). -/
theorem staleTripDue_afterStage1 {s : State} (ready : s.hp.part = .ready) (armed : s.oc.state = .armed)
    (stale : staleNow (demandTake (beginPeriod s)) = true) :
    StaleTripDue (staleTripStage (demandTake (beginPeriod s))) ((s.se.periodNumber + 1) % 2 ^ 32)
      (stageDemand .start (beginPeriod s)).1 (afterStage1 s) := by
  have only := stageDemand_only .start (beginPeriod s)
  refine ⟨?_, (only.part_eq (by simp)).trans ready, ?_, ?_⟩
  · rw [stageDemand_eq, stale]
    rfl
  · exact (congrArg OutputControl.state (only.oc_eq (by simp))).trans armed
  · exact congrArg SplitEngine.periodNumber (only.se_eq (by simp))

theorem staleTripStage_bounds (s : State) : 2 ≤ staleTripStage s ∧ staleTripStage s ≤ 13 := by
  have : Config.staleTripStage s.freeIndex % 12 < 12 := Nat.mod_lt _ (by decide)
  unfold staleTripStage
  omega

/-- An operation that begins and is taken to its end: stage 1, the other stages, and a trip that is still under way. -/
theorem exec_wholeOperation {s : State} (due : PeriodDue s) {r : Staged}
    (rest : r = runStages (stagesUpTo 1 12) (stageDemand .start (beginPeriod s)).1 (afterStage1 s)) :
    exec (.periodExpiry .report) s = .next ((takeStaleTrip 13 r.1 r.2).2.setSe
      { (takeStaleTrip 13 r.1 r.2).2.se with work := none }) := by
  subst rest
  rw [exec_periodExpiry due.1.1, periodExpiry_due due]
  rfl

/-- Settles O36: `staleNow_aged` and `staleNow_not` say when stage 1 signals (`signalStale_event`), and the trip that is then under
way has been taken when the operation ends (`StaleTripDue.tripped_at_end`). -/
theorem staleDemandTrips : Obligations.StaleDemandTrips := by
  refine ⟨fun s r due ready armed idle current unmarked pos reached => ?_, fun s due pos => ?_⟩
  · have stale := staleNow_aged (s := beginPeriod s) pos armed idle current unmarked reached
    obtain ⟨low, high⟩ := staleTripStage_bounds (demandTake (beginPeriod s))
    obtain ⟨state, enF, enR, record, lines⟩ := (staleTripDue_afterStage1 ready armed stale).tripped_at_end low high
    refine ⟨⟨_, exec_stage1 due, ?_, ?_, stageDemand_notices .start (beginPeriod s)⟩, _, exec_wholeOperation due rfl,
      state, enF, enR, record, lines⟩
    · show (afterStage1 s).di.staleSignalled = true
      rw [afterStage1, stageDemand_di, stale, Bool.or_true]
    · show faultRecord .demandStale (stageDemand .start (beginPeriod s)).2 = _
      rw [faultRecord_demandStale_stageDemand, staleCheck_now stale]
      exact signalStale_event (demandTake (beginPeriod s))
  · refine ⟨_, exec_stage1 due, fun fresh => ?_⟩
    rw [State.setSe_di, afterStage1_current] at fresh
    show faultRecord .demandStale (stageDemand .start (beginPeriod s)).2 = _
    rw [faultRecord_demandStale_stageDemand, staleCheck_idle (staleNow_not (s := beginPeriod s) pos fresh)]
    rfl

end Sys2Proof.Machine
end

section
/-! Every step keeps the profiles in range and every share at most 1000 (O56): only five operations change the Profile Table. -/

namespace Sys2Proof.Machine

/-! ### Claims with other things taken between them -/

section
variable {I : State → Prop} (K : KeptBetween I)
include K

/-- A full signal keeps `I`, whatever is taken before its forcing notice, where what it may change itself does (R143). -/
theorem KeptBetween.signal_gaps (own : ∀ {s t}, OnlyChanges tripParts s t → I s → I t) (c : FaultCode) (ch : FaultChange)
    (gs : List (ClaimGap × Meanwhile)) {s : State} (i : I s) : I (signal c ch s (Machine.gaps gs)) := by
  have taken : I (takeAtRecord c ch s) := own ((takeAtRecord_only c ch s).mono (by simp [tripParts])) i
  unfold signal
  dsimp only
  refine own ((actOutward_only _ _ _).mono (by simp [tripParts])) ?_
  split
  · exact K.trip _ _ (K.gaps gs _ taken)
  · exact taken

/-- A link state change keeps `I`, whatever is taken between its claims, where what it may change itself does (R118 to R120). -/
theorem KeptBetween.moveLink_gaps {x : Axle} (own : ∀ {s t}, OnlyChanges (.linkState x :: .out :: tripParts) s t → I s → I t)
    (new : LinkState) (gs : List (ClaimGap × Meanwhile)) {s : State} (i : I s) :
    I (moveLink x new s (Machine.gaps gs)) := by
  have post {t : State} (d : Direction) (j : I t) : I (postInternal .link x d 0 t) :=
    own ((postInternal_only _ _ _ _ _).mono (by simp [tripParts])) j
  have withdraw {t : State} (d : Direction) (j : I t) : I (withdrawInternal .link x d t) :=
    own ((withdrawInternal_only _ _ _ _).mono (by simp [tripParts])) j
  have out {t : State} (v : OutRecord) (j : I t) : I (t.setOut v) := own ((setOut_only t v).mono (by simp)) j
  refine moveLink_keeps (P := I) x new s (own ?_ i) (fun _ j => post _ (K.gaps gs _ (post _ (K.gaps gs _ j))))
    (fun _ j => withdraw _ (K.gaps gs _ (withdraw _ (K.gaps gs _ j))))
    (fun _ _ _ j => own ((signalReporting_only _ _ _).mono (by simp [tripParts])) j) (fun _ _ j => ?_)
    (fun _ j => own ((linkLeftSynced_only _).mono (by simp [tripParts])) j)
  · apply setLink_only <;> simp
  · unfold outClaim
    dsimp only
    split
    · exact out _ j
    · exact K.signal_gaps (fun h => own (h.mono (by simp))) _ _ gs (out _ j)

end

/-! ### The slots -/

@[simp] theorem ProfileSlots.get_zero (t : ProfileSlots) : t.get 0 = ⟨some slot0Profile, 0⟩ := rfl

@[simp] theorem ProfileSlots.get_set_same (t : ProfileSlots) {n : Fin 8} (v : ProfileSlot) (h : n ≠ 0) :
    (t.set n v).get n = v := by
  match n, h with
  | 0, fixed => exact absurd rfl fixed
  | 1, _ | 2, _ | 3, _ | 4, _ | 5, _ | 6, _ | 7, _ => rfl

theorem ProfileSlots.get_set_of_ne (t : ProfileSlots) {n m : Fin 8} (v : ProfileSlot) (h : m ≠ n) :
    (t.set n v).get m = t.get m := by
  unfold ProfileSlots.set
  split
  · rfl
  all_goals
    unfold ProfileSlots.get
    split <;> first | rfl | contradiction

/-! ### The operations that change the table -/

/-- The profiles stay in range where the slots and the active slot stand. -/
theorem ProfilesInRange.of_eq {s t : State} (i : ProfilesInRange s) (slots : t.pt.slots = s.pt.slots)
    (active : t.pt.active = s.pt.active) : ProfilesInRange t := by
  unfold ProfilesInRange at i ⊢
  rwa [slots, active]

theorem SharesInRange.of_pt_eq {s t : State} (i : SharesInRange s) (h : t.pt = s.pt) : SharesInRange t := by
  unfold SharesInRange ProfilesInRange at i ⊢
  rwa [h]

/-- What does not change the Profile Table. -/
theorem SharesInRange.of_only {ps : List Part} {s t : State} (i : SharesInRange s) (h : OnlyChanges ps s t)
    (n : Part.pt ∉ ps := by simp [smParts, tripParts]) : SharesInRange t := i.of_pt_eq (h.pt_eq n)

theorem sharesInRange_reset : SharesInRange State.reset := ⟨profilesInRange_reset, by decide⟩

theorem activeProfile_firstBad {s : State} (i : ProfilesInRange s) : (activeProfile s).firstBad = none := by
  obtain ⟨inRange, valid⟩ := i
  obtain ⟨p, active⟩ := Option.isSome_iff_exists.1 valid
  rw [activeProfile_eq active]
  exact inRange _ p active

/-- The period take moves the shares and the blend, and leaves the profiles (R79, R80). -/
theorem SharesInRange.periodTake {s : State} (i : SharesInRange s) {drive regen : Nat} (hd : drive ≤ 1000)
    (hr : regen ≤ 1000) : SharesInRange (s.setPt (s.pt.periodTake drive regen)) := by
  obtain ⟨lastDrive, lastRegen⟩ := periodTake_le i hd hr
  obtain ⟨profiles, -, -, startDrive, startRegen, -⟩ := i
  cases blend : s.pt.blendRunning
  · rw [periodTake_still blend] at lastDrive lastRegen ⊢
    exact ⟨profiles.of_eq rfl rfl, lastDrive, lastRegen, startDrive, startRegen,
      fun running => absurd (running.symm.trans blend) (by decide)⟩
  · rw [periodTake_blend blend] at lastDrive lastRegen ⊢
    exact ⟨profiles.of_eq rfl rfl, lastDrive, lastRegen, startDrive, startRegen, of_decide_eq_true⟩

/-- A select makes a VALID slot active, and its blend starts from the last-used shares (R75, R76, R78). -/
theorem SharesInRange.select {s : State} (i : SharesInRange s) {n : Fin 8} {p : Profile}
    (valid : (s.pt.slots.get n).profile = some p) : SharesInRange (s.setPt (s.pt.select n p)) := by
  obtain ⟨⟨inRange, -⟩, lastDrive, lastRegen, -, -, -⟩ := i
  refine ⟨⟨inRange, ?_⟩, lastDrive, lastRegen, lastDrive, lastRegen, fun running => ?_⟩
  · show (s.pt.slots.get n).profile.isSome = true
    rw [valid]
    rfl
  · exact Nat.pos_of_ne_zero (of_decide_eq_true running)

/-- A write that passes its checks puts a profile in range in a slot that is not active (R66, R70, R71). -/
theorem SharesInRange.write {s : State} (i : SharesInRange s) {n : Fin 8} {p : Profile} (notFixed : n ≠ 0)
    (inactive : n ≠ s.pt.active) (good : p.firstBad = none) :
    SharesInRange (s.setPt { s.pt with slots := s.pt.slots.set n ((s.pt.slots.get n).written p) }) := by
  obtain ⟨⟨inRange, valid⟩, shares⟩ := i
  refine ⟨⟨fun m q held => ?_, ?_⟩, shares⟩
  · by_cases same : m = n
    · subst same
      obtain rfl : p = q := by simpa [notFixed, ProfileSlot.written] using held
      exact good
    · exact inRange m q (by simpa [ProfileSlots.get_set_of_ne _ _ same] using held)
  · simpa [ProfileSlots.get_set_of_ne _ _ inactive.symm] using valid

/-- READY entry takes the shares of slot 0, and leaves the slots and the active one (R63, R163). -/
theorem SharesInRange.readyEntry {s : State} (i : SharesInRange s) : SharesInRange (readyEntry s) := by
  have entered : SharesInRange (blocksReadyEntry s) :=
    ⟨i.1.of_eq rfl rfl, (by decide : 500 ≤ 1000), (by decide : 500 ≤ 1000), Nat.zero_le _, Nat.zero_le _, nofun⟩
  exact entered.of_only (readyEntry_only s)

/-! ### Steps -/

theorem shares_keptBetween : KeptBetween SharesInRange where
  frame h i := i.of_pt_eq (h .pt (by simp [coreParts]))
  se s v _ _ i := i.of_only (setSe_only s v)
  periodTake s i :=
    i.periodTake (targetDrive_le (activeProfile_firstBad i.1) _ _) (regenShare_le (activeProfile_firstBad i.1))
  stale s i := i.of_only (signalStale_only s)
  smDirection s x z i := i.of_only (smDirection_only x z s)
  notice s n i := i.of_only (demandNotice_only n s)
  shortfall s w i := i.of_only (stageMonitor_only w s)
  trip s c i := i.of_only (trip_only c s)
  arm s _ i := i.of_only (startArming_only s)
  trackWithdraw s x d i := i.of_only (withdrawInternal_only _ x d s)

theorem shares_kept : Kept (fun _ => True) SharesInRange where
  toKeptBetween := shares_keptBetween
  premise _ _ := trivial
  tb s v _ i := i.of_only (setTb_only s v)
  select _ _ _ valid i := i.select valid
  write _ _ _ notFixed inactive good i := i.write notFixed inactive good
  capFull s i := i.of_only (signalReporting_only _ _ s)
  noticeLost s i := i.of_only (signalReporting_only _ _ s)
  hostLink s i := i.of_only (evaluateHostLink_only s)
  inverter s x d n i := i.of_only (postInternal_only _ x d n s)
  trackPost s x d i := i.of_only (postInternal_only _ x d 0 s)
  smFrame s x f st i := i.of_only (smFrame_only x f st s)
  timebase s b gs i := shares_keptBetween.signal_gaps (fun h j => j.of_only h) _ _ gs (i.of_only (setTb_only s _))
  test s set c i := i.of_only (testFault_only set s c)
  faultRead s z i := i.of_only ((setFu_only s _).trans ((updateAttn_only _).mono (by simp)))
  mask s set i := i.of_only ((setFu_only s _).trans ((updateAttn_only _).mono (by simp)))
  disarm s i := i.of_only (disarmFrom_only s)
  clear s _ _ i := i.of_only (setOc_only s _)
  window s i := i.of_only (armWindowExpires_only s)
  countdown s i := i.of_only (setOc_only s _)
  move _ _ new gs i := shares_keptBetween.moveLink_gaps (fun h j => j.of_only h) new gs i
  ready s p _ _ i := (i.of_pt_eq (t := s.setHp { s.hp with params := p, part := .ready }) rfl).readyEntry
  reset s c := sharesInRange_reset.of_pt_eq (t := resetBlocks c s) rfl

/-- Settles O56: the five operations on the Profile Table keep the shares in range, and the rest of a step leaves the table. -/
theorem stepKeepsSharesInRange : Obligations.StepKeepsSharesInRange :=
  fun _ _ i e => shares_kept.step trivial i e

end Sys2Proof.Machine
end

section
/-! The PROFILE requests: WRITE, CHECK, READ and SELECT (O23 to O26). -/

namespace Sys2Proof.Machine

/-! ### The slot a request names, and its answer -/

theorem readSlot_above {n : Nat} (h : 7 < n) : readSlot n = none := dif_neg (by omega)

theorem readSlot_of_val {slot : Fin 8} {n : Nat} (h : slot.val = n) : readSlot n = some slot := by
  subst h
  exact dif_pos slot.isLt

/-- A reply to a request changes no more than the two queues of the host port. -/
theorem reply_popRequest_only (f : HostFrame) (r : ResultCode) (p : List Byte) (s : State) :
    OnlyChanges [.tx, .requests] s (reply f r p (popRequest s)) :=
  reply_mono (by simp) _ _ _ ((popRequest_only s).mono (by simp))

theorem answered_reply_popRequest (f : HostFrame) (r : ResultCode) (p : List Byte) (s : State) :
    Answered f r p s (reply f r p (popRequest s)) := answered_reply (.refl [] _) (by simp) (by simp) r p

/-- A request answered after a change of the Profile Table alone. -/
theorem reply_setPt (f : HostFrame) (r : ResultCode) (p : List Byte) (s : State) (v : ProfileTable) :
    Answered f r p s (reply f r p ((popRequest s).setPt v))
      ∧ OnlyChanges [.pt, .tx, .requests] s (reply f r p ((popRequest s).setPt v))
      ∧ (reply f r p ((popRequest s).setPt v)).pt = v :=
  ⟨answered_reply (setPt_only _ v) (by simp) (by simp) r p,
    reply_mono (by simp) _ _ _ (((popRequest_only s).mono (by simp)).trans ((setPt_only _ v).mono (by simp))),
    (reply_only _ _ _ _).pt_eq (by simp)⟩

/-! ### Field masks and field numbers -/

theorem fieldNumbers_eq : fieldNumbers = List.range 30 := rfl

theorem maskCount_eq (mask : Nat) : maskCount mask = ((List.range 32).filter fun n => mask.testBit n).length := rfl

theorem lowestUnnamed_eq_some {mask n : Nat} (h : n < 30) (unnamed : mask.testBit n = false)
    (named : ∀ m, m < n → mask.testBit m = true) : lowestUnnamed mask = some n := by
  rw [lowestUnnamed, fieldNumbers_eq, List.find?_range_eq_some]
  exact ⟨by simp [maskBit, unnamed], List.mem_range.2 h, fun m hm => by simp [maskBit, named m hm]⟩

theorem lowestUnnamed_eq_none {mask : Nat} (named : ∀ m, m < 30 → mask.testBit m = true) : lowestUnnamed mask = none := by
  rw [lowestUnnamed, fieldNumbers_eq, List.find?_range_eq_none]
  exact fun m hm => by simp [maskBit, named m hm]

theorem firstBad_eq_some {p : Profile} {n : Nat} (h : n < 30) (bad : p.fieldInRange n = false)
    (good : ∀ m, m < n → p.fieldInRange m = true) : p.firstBad = some n := by
  rw [Profile.firstBad, fieldNumbers_eq, List.find?_range_eq_some]
  exact ⟨by simp [bad], List.mem_range.2 h, fun m hm => by simp [good m hm]⟩

theorem firstBad_eq_none {p : Profile} (good : ∀ m, m < 30 → p.fieldInRange m = true) : p.firstBad = none := by
  rw [Profile.firstBad, fieldNumbers_eq, List.find?_range_eq_none]
  exact fun m hm => by simp [good m hm]

/-! ### The checks of a write (R70, R72) -/

section
variable {t : ProfileTable} {slot : Fin 8} {payload : List Byte}

theorem checkWrite_fixed (fixed : slot = 0) : checkWrite t slot payload = .refuse .guarded 255 := by
  simp [checkWrite, fixed, fieldNone]

theorem checkWrite_active (notFixed : slot ≠ 0) (active : slot = t.active) :
    checkWrite t slot payload = .refuse .busy 255 := by
  simp [checkWrite, notFixed, ← active, fieldNone]

theorem checkWrite_bit30 (notFixed : slot ≠ 0) (inactive : slot ≠ t.active)
    (bit30 : (u32At payload 1).testBit 30 = true) : checkWrite t slot payload = .refuse .fieldUnknown 30 := by
  simp [checkWrite, notFixed, inactive, maskBit, bit30]

theorem checkWrite_bit31 (notFixed : slot ≠ 0) (inactive : slot ≠ t.active)
    (bit30 : (u32At payload 1).testBit 30 = false) (bit31 : (u32At payload 1).testBit 31 = true) :
    checkWrite t slot payload = .refuse .fieldUnknown 31 := by
  simp [checkWrite, notFixed, inactive, maskBit, bit30, bit31]

end

/-- A write to a slot that can be written, whose mask names fields only: checks 1 to 3 of R70 pass. -/
structure Writable (t : ProfileTable) (slot : Fin 8) (mask : Nat) : Prop where
  notFixed : slot ≠ 0
  inactive : slot ≠ t.active
  bit30 : mask.testBit 30 = false
  bit31 : mask.testBit 31 = false

section
variable {t : ProfileTable} {slot : Fin 8} {payload : List Byte} (h : Writable t slot (u32At payload 1))
include h

theorem checkWrite_length (wrong : payload.length - 5 ≠ 2 * maskCount (u32At payload 1)) :
    checkWrite t slot payload = .refuse .length 255 := by
  simp [checkWrite, h.notFixed, h.inactive, maskBit, h.bit30, h.bit31, wrong, fieldNone]

variable (len : payload.length - 5 = 2 * maskCount (u32At payload 1))
include len

theorem checkWrite_incomplete {n : Nat} (empty : (t.slots.get slot).profile = none)
    (unnamed : lowestUnnamed (u32At payload 1) = some n) : checkWrite t slot payload = .refuse .incomplete n := by
  simp [checkWrite, h.notFixed, h.inactive, maskBit, h.bit30, h.bit31, len, empty, unnamed]

variable (complete : (t.slots.get slot).profile.isSome = true ∨ lowestUnnamed (u32At payload 1) = none) {merged : Profile}
  (hm : merged = mergedProfile (t.slots.get slot).profile (u32At payload 1)
    (readValues payload (maskCount (u32At payload 1))))
include complete hm

/-- What the last check decides (R66, R72). -/
theorem checkWrite_complete : checkWrite t slot payload = merged.firstBad.elim (.accept merged) (.refuse .range) := by
  simp only [checkWrite, h.notFixed, h.inactive, maskBit, h.bit30, h.bit31, len, if_false, ne_eq, not_true_eq_false,
    Bool.false_eq_true, ← hm]
  split
  · rename_i empty unnamed
    simp [empty, unnamed] at complete
  · cases merged.firstBad <;> rfl

theorem checkWrite_range {n : Nat} (bad : merged.firstBad = some n) : checkWrite t slot payload = .refuse .range n := by
  rw [checkWrite_complete h len complete hm, bad]
  rfl

theorem checkWrite_accepts (good : merged.firstBad = none) : checkWrite t slot payload = .accept merged := by
  rw [checkWrite_complete h len complete hm, good]
  rfl

end

/-! ### WRITE and CHECK at their owner (R69, R71, R73) -/

/-- A WRITE or CHECK of a slot above 7. -/
theorem exec_writeOrCheck_noSlot {k : RequestKind} {f : HostFrame} {s : State} (hk : k = .profileWrite ∨ k = .profileCheck)
    (h : Handed k f s) (above : 7 < u8At f.payload 0) :
    exec k.command s = .next (reply f .range (u8 255 ++ u16 0) (popRequest s)) := by
  rcases hk with rfl | rfl
  · refine (inOperation_handed h ownerProfileWrite).trans ?_
    rw [ownerProfileWrite, readSlot_above above]
    rfl
  · refine (inOperation_handed h ownerProfileCheck).trans ?_
    rw [ownerProfileCheck, readSlot_above above]
    rfl

/-- A WRITE or CHECK that a check refuses. -/
theorem exec_writeOrCheck_refused {k : RequestKind} {f : HostFrame} {s : State} {slot : Fin 8} {r : ResultCode} {field : Nat}
    (hk : k = .profileWrite ∨ k = .profileCheck) (h : Handed k f s) (named : slot.val = u8At f.payload 0)
    (verdict : checkWrite s.pt slot f.payload = .refuse r field) :
    exec k.command s = .next (reply f r (u8 field ++ u16 (s.pt.slots.get slot).revision) (popRequest s)) := by
  have popped : checkWrite (popRequest s).pt slot f.payload = .refuse r field := verdict
  rcases hk with rfl | rfl
  · refine (inOperation_handed h ownerProfileWrite).trans ?_
    simp only [ownerProfileWrite, readSlot_of_val named, popped]
    rfl
  · refine (inOperation_handed h ownerProfileCheck).trans ?_
    simp only [ownerProfileCheck, readSlot_of_val named, popped]
    rfl

/-- A CHECK that passes (R73). -/
theorem exec_check_accepted {f : HostFrame} {s : State} {slot : Fin 8} {p : Profile} (h : Handed .profileCheck f s)
    (named : slot.val = u8At f.payload 0) (verdict : checkWrite s.pt slot f.payload = .accept p) :
    exec .profileCheck s = .next (reply f .ok (u8 255 ++ u16 (s.pt.slots.get slot).revision) (popRequest s)) := by
  have popped : checkWrite (popRequest s).pt slot f.payload = .accept p := verdict
  refine (inOperation_handed h ownerProfileCheck).trans ?_
  simp only [ownerProfileCheck, readSlot_of_val named, popped]
  rfl

/-- A WRITE that passes (R71). -/
theorem exec_write_accepted {f : HostFrame} {s : State} {slot : Fin 8} {p : Profile} (h : Handed .profileWrite f s)
    (named : slot.val = u8At f.payload 0) (verdict : checkWrite s.pt slot f.payload = .accept p) :
    exec .profileWrite s = .next (reply f .ok (u8 255 ++ u16 (((s.pt.slots.get slot).revision + 1) % 65536))
      ((popRequest s).setPt { s.pt with slots := s.pt.slots.set slot ((s.pt.slots.get slot).written p) })) := by
  have popped : checkWrite (popRequest s).pt slot f.payload = .accept p := verdict
  refine (inOperation_handed h ownerProfileWrite).trans ?_
  simp only [ownerProfileWrite, readSlot_of_val named, popped]
  rfl

/-- The fixed fields of a WRITE or CHECK fill five bytes, so its length settles how many values follow (R70). -/
theorem valueBytes_eq_iff {k : RequestKind} {f : HostFrame} {s : State} (hk : k = .profileWrite ∨ k = .profileCheck)
    (h : Handed k f s) (count : Nat) : f.payload.length - 5 = 2 * count ↔ f.payload.length = 5 + 2 * count := by
  obtain ⟨-, -, -, -, -, len, -⟩ := h
  have fixed : 5 ≤ f.payload.length := by rcases hk with rfl | rfl <;> exact of_decide_eq_true len
  omega

/-- Check 5 of R70 passes for a VALID slot, and for a mask that names every field. -/
theorem complete_of_named {v : ProfileSlot} {mask : Nat}
    (h : v.profile.isSome = true ∨ ∀ m, m < 30 → mask.testBit m = true) :
    v.profile.isSome = true ∨ lowestUnnamed mask = none := h.imp_right lowestUnnamed_eq_none

/-- Settles O23: each check is an equation of `checkWrite`, and both requests answer its verdict. -/
theorem profileWriteAndCheckRefusals : Obligations.ProfileWriteAndCheckRefusals := by
  rintro k s f mask bits merged hk h rfl rfl hmerged
  refine ⟨fun above => ⟨_, exec_writeOrCheck_noSlot hk h above, answered_reply_popRequest _ _ _ _,
    reply_popRequest_only _ _ _ _⟩, fun slot v named hv r field cases => ?_⟩
  subst hv
  have answers {r : ResultCode} {fields : List Byte} (e : exec k.command s = .next (reply f r fields (popRequest s))) :
      ∃ t, exec k.command s = .next t ∧ Answered f r fields s t ∧ OnlyChanges [.tx, .requests] s t :=
    ⟨_, e, answered_reply_popRequest _ _ _ _, reply_popRequest_only _ _ _ _⟩
  have refused {r : ResultCode} {field : Nat} (verdict : checkWrite s.pt slot f.payload = .refuse r field) :=
    answers (exec_writeOrCheck_refused hk h named verdict)
  obtain ⟨fixed, rfl, rfl⟩ | ⟨notFixed, active, rfl, rfl⟩ | ⟨notFixed, inactive, cases⟩ := cases
  · exact refused (checkWrite_fixed fixed)
  · exact refused (checkWrite_active notFixed active)
  obtain ⟨bit30, rfl, rfl⟩ | ⟨bit30, bit31, rfl, rfl⟩ | ⟨bit30, bit31, cases⟩ := cases
  · exact refused (checkWrite_bit30 notFixed inactive bit30)
  · exact refused (checkWrite_bit31 notFixed inactive bit30 bit31)
  have writable : Writable s.pt slot (u32At f.payload 1) := ⟨notFixed, inactive, bit30, bit31⟩
  have len := valueBytes_eq_iff hk h (maskCount (u32At f.payload 1))
  obtain ⟨wrong, rfl, rfl⟩ | ⟨right, cases⟩ := cases
  · exact refused (checkWrite_length writable fun e => wrong (len.1 e))
  have len := len.2 right
  obtain ⟨empty, inside, unnamed, below, rfl⟩ | ⟨complete, inside, bad, good, rfl⟩ | ⟨rfl, complete, good, rfl, rfl⟩ := cases
  · exact refused (checkWrite_incomplete writable len empty (lowestUnnamed_eq_some inside unnamed below))
  · exact refused (checkWrite_range writable len (complete_of_named complete) (hmerged _) (firstBad_eq_some inside bad good))
  · exact answers (exec_check_accepted h named
      (checkWrite_accepts writable len (complete_of_named complete) (hmerged _) (firstBad_eq_none good)))

/-! ### The values a write gives (R66, R172) -/

theorem mergeFields_length (ns : List Nat) (mask : Nat) (values old : List Nat) :
    (mergeFields ns mask values old).length = ns.length := by
  induction ns generalizing values with
  | nil => rfl
  | cons n ns ih =>
    unfold mergeFields
    split <;> simp [ih]

/-- A field that the mask names takes the next value of the list, in the order of the fields; any other keeps its own. -/
theorem mergeFields_getD (ns : List Nat) (mask : Nat) (values old : List Nat) {i : Nat} (h : i < ns.length) :
    (mergeFields ns mask values old).getD i 0
      = if mask.testBit ns[i] then values.getD ((ns.take i).filter fun n => mask.testBit n).length 0 else old.getD ns[i] 0 := by
  induction ns generalizing values i with
  | nil => simp at h
  | cons n ns ih =>
    unfold mergeFields maskBit
    cases i with
    | zero =>
      by_cases named : mask.testBit n
      · cases values <;> simp [named]
      · simp [named]
    | succ i =>
      have inside : i < ns.length := Nat.lt_of_succ_lt_succ h
      by_cases named : mask.testBit n
      · simpa [named] using ih values.tail inside
      · simpa [named] using ih values inside

theorem toList_ofList (l : List Nat) : (Profile.ofList l).toList = (List.range 30).map fun n => l.getD n 0 := rfl

theorem toList_ofList_getD (l : List Nat) {n : Nat} (h : n < 30) : (Profile.ofList l).toList.getD n 0 = l.getD n 0 := by
  simp [toList_ofList, h]

theorem readValues_getD (p : List Byte) {k i : Nat} (h : i < k) : (readValues p k).getD i 0 = u16At p (5 + 2 * i) := by
  simp [readValues, h]

/-- The fields below a named one that are named are fewer than all that are. -/
theorem countBelow_lt {mask m : Nat} (h : m < 32) (named : mask.testBit m = true) :
    ((List.range m).filter fun n => mask.testBit n).length < maskCount mask := by
  have upTo := ((List.range_sublist.2 (show m + 1 ≤ 32 by omega)).filter fun n => mask.testBit n).length_le
  rw [List.range_succ, List.filter_append, List.length_append] at upTo
  rw [maskCount_eq]
  simp [named] at upTo
  omega

/-- Each field of the merged result (R66). -/
theorem mergedProfile_getD (old : Option Profile) (mask : Nat) (p : List Byte) {m : Nat} (h : m < 30) :
    (mergedProfile old mask (readValues p (maskCount mask))).toList.getD m 0
      = if mask.testBit m then u16At p (5 + 2 * ((List.range m).filter fun j => mask.testBit j).length)
        else ((old.map Profile.toList).getD []).getD m 0 := by
  rw [mergedProfile, toList_ofList_getD _ h, mergeFields_getD _ _ _ _ (show m < fieldNumbers.length from h)]
  have field (inside : m < fieldNumbers.length) : fieldNumbers[m] = m := by simp [fieldNumbers_eq]
  have below : fieldNumbers.take m = List.range m := by rw [fieldNumbers_eq, List.take_range, Nat.min_eq_left (by omega)]
  rw [field, below]
  refine ite_congr rfl (fun named => ?_) fun _ => rfl
  exact readValues_getD p (countBelow_lt (by omega) named)

/-- Settles O24: the checks accept the merged result (`checkWrite_accepts`), and its fields are those of `mergedProfile_getD`. -/
theorem profileWriteTaken : Obligations.ProfileWriteTaken := by
  rintro s f slot mask bits h named notFixed inactive rfl small rfl len complete good
  have high {b : Nat} (hb : 30 ≤ b) : (u32At f.payload 1).testBit b = false :=
    Nat.testBit_lt_two_pow (Nat.lt_of_lt_of_le small (Nat.pow_le_pow_right (by decide) hb))
  have all (e : u32At f.payload 1 = 2 ^ 30 - 1) (m : Nat) (hm : m < 30) : (u32At f.payload 1).testBit m = true := by
    rw [e, Nat.testBit_two_pow_sub_one]
    exact decide_eq_true hm
  have verdict := checkWrite_accepts ⟨notFixed, inactive, high (by decide), high (by decide)⟩
    ((valueBytes_eq_iff (.inl rfl) h _).2 len) (complete_of_named (complete.imp_right all)) rfl (firstBad_eq_none good)
  obtain ⟨answered, only, table⟩ := reply_setPt f .ok (u8 255 ++ u16 (((s.pt.slots.get slot).revision + 1) % 65536)) s
    { s.pt with slots := s.pt.slots.set slot ((s.pt.slots.get slot).written _) }
  refine ⟨_, _, exec_write_accepted h named verdict, fun m hm => mergedProfile_getD _ _ _ hm, ?_, fun m other => ?_, ?_,
    answered, only⟩
  · rw [table]
    exact ProfileSlots.get_set_same _ _ notFixed
  · rw [table]
    exact ProfileSlots.get_set_of_ne _ _ other
  · rw [table]

/-! ### READ at its owner (R74) -/

/-- Settles O25: the cases of `ownerProfileRead`, which only replies. -/
theorem profileReadReply : Obligations.ProfileReadReply := by
  rintro s f mask h rfl
  have answered {r : ResultCode} {fields : List Byte}
      (e : ownerProfileRead f (popRequest s) = reply f r fields (popRequest s)) :
      Answered f r fields s (ownerProfileRead f (popRequest s)) := by
    rw [e]
    exact answered_reply_popRequest _ _ _ _
  refine ⟨_, inOperation_handed h ownerProfileRead, ?_, fun above => answered ?_, fun slot named => ?_⟩
  · exact ((popRequest_only s).mono (by simp)).trans ((ownerProfileRead_only f _).mono (by simp))
  · simp only [ownerProfileRead, readSlot_above above]
    rfl
  have slotOf := readSlot_of_val named
  refine ⟨fun bit30 => answered ?_, fun bit30 bit31 => answered ?_, fun bit30 bit31 => ⟨fun empty => answered ?_,
    fun p valid => answered ?_⟩⟩
  · simp only [ownerProfileRead, slotOf, maskBit, bit30, if_true]
    rfl
  · simp only [ownerProfileRead, slotOf, maskBit, bit30, bit31, Bool.false_eq_true, if_false, if_true]
    rfl
  · have empty : ((popRequest s).pt.slots.get slot).profile = none := empty
    simp only [ownerProfileRead, slotOf, maskBit, bit30, bit31, Bool.false_eq_true, if_false, empty]
    rfl
  · have valid : ((popRequest s).pt.slots.get slot).profile = some p := valid
    simp only [ownerProfileRead, slotOf, maskBit, bit30, bit31, Bool.false_eq_true, if_false, valid]
    rfl

/-! ### SELECT at its owner (R75) -/

section
variable {f : HostFrame} {s : State} {slot : Fin 8}

theorem ownerProfileSelect_noSlot (above : 7 < u8At f.payload 0) :
    ownerProfileSelect f s = reply f .range (u8 s.pt.active.val) s := by
  simp [ownerProfileSelect, readSlot_above above]

theorem ownerProfileSelect_empty (named : slot.val = u8At f.payload 0) (empty : (s.pt.slots.get slot).profile = none) :
    ownerProfileSelect f s = reply f .empty (u8 s.pt.active.val) s := by
  simp [ownerProfileSelect, readSlot_of_val named, empty]

variable {p : Profile} (named : slot.val = u8At f.payload 0) (valid : (s.pt.slots.get slot).profile = some p)
include named valid

theorem ownerProfileSelect_same (active : slot = s.pt.active) (still : s.pt.blendRunning = false) :
    ownerProfileSelect f s = reply f .ok (u8 s.pt.active.val) s := by
  simp [ownerProfileSelect, readSlot_of_val named, valid, ← active, still]

theorem ownerProfileSelect_starts (moves : slot ≠ s.pt.active ∨ s.pt.blendRunning = true) :
    ownerProfileSelect f s = reply f .ok (u8 s.pt.active.val) (s.setPt (s.pt.select slot p)) := by
  have notSame : ¬(slot = s.pt.active ∧ s.pt.blendRunning = false) := fun ⟨same, still⟩ =>
    moves.elim (fun other => other same) fun running => absurd (running.symm.trans still) (by decide)
  simp only [ownerProfileSelect, readSlot_of_val named, valid, if_neg notSame]

end

/-- A blend runs where it has at least one period (R76, R78). -/
theorem select_eq (t : ProfileTable) (slot : Fin 8) (p : Profile) :
    t.select slot p = { t with
      active := slot, startDrive := t.lastDrive, startRegen := t.lastRegen, blendStep := 0
      blendLength := p.blendPeriods, blendRunning := decide (1 ≤ p.blendPeriods) } := by
  simp only [ProfileTable.select, Nat.one_le_iff_ne_zero]

/-- Settles O26: one equation of `ownerProfileSelect` for each case, and `select_eq` for the blend. -/
theorem profileSelectStartsBlend : Obligations.ProfileSelectStartsBlend := by
  intro s f h
  have replies {r : ResultCode} {fields : List Byte}
      (e : ownerProfileSelect f (popRequest s) = reply f r fields (popRequest s)) :
      Answered f r fields s (ownerProfileSelect f (popRequest s))
        ∧ OnlyChanges [.tx, .requests] s (ownerProfileSelect f (popRequest s)) := by
    rw [e]
    exact ⟨answered_reply_popRequest _ _ _ _, reply_popRequest_only _ _ _ _⟩
  refine ⟨_, inOperation_handed h ownerProfileSelect, fun above => replies (ownerProfileSelect_noSlot above), fun slot named =>
    ⟨fun empty => replies (ownerProfileSelect_empty named empty),
      fun p valid active still => replies (ownerProfileSelect_same named valid active still), fun p valid moves => ?_⟩⟩
  have starts : ownerProfileSelect f (popRequest s) = _ := ownerProfileSelect_starts named valid moves
  obtain ⟨answered, only, table⟩ := reply_setPt f .ok (u8 s.pt.active.val) s (s.pt.select slot p)
  rw [starts]
  exact ⟨answered, only, table.trans (select_eq _ _ _)⟩

end Sys2Proof.Machine
end

section
/-! The LINK requests: reading the fields of a reply, LINK QUERY and LINK POST (O27, O28). -/

namespace Sys2Proof.Machine

/-! ### Reading a little-endian field at its offset (R170) -/

section
variable {p rest : List Byte} {i n : Nat}

theorem byteAt_of_drop {b : Byte} (h : p.drop i = b :: rest) : byteAt p i = b := by
  have head : (p.drop i)[0]? = some b := by rw [h]; rfl
  rw [List.getElem?_drop] at head
  exact congrArg (Option.getD · 0) head

theorem u8At_of_drop (h : p.drop i = u8 n ++ rest) : u8At p i = n % 256 := by
  rw [u8At, byteAt_of_drop h]
  exact BitVec.toNat_ofNat n 8

theorem u16At_of_drop (h : p.drop i = u16 n ++ rest) : u16At p i = n % 2 ^ 16 := by
  have low : byteAt p i = BitVec.ofNat 8 n := byteAt_of_drop h
  have high : byteAt p (i + 1) = BitVec.ofNat 8 (n / 256) :=
    byteAt_of_drop (rest := rest) (by rw [← List.drop_drop, h]; rfl)
  rw [u16At, u8At, u8At, low, high, BitVec.toNat_ofNat, BitVec.toNat_ofNat]
  omega

theorem u32At_of_drop (h : p.drop i = u32 n ++ rest) : u32At p i = n % 2 ^ 32 := by
  have low : u16At p i = n % 2 ^ 16 := u16At_of_drop (rest := (u32 n).drop 2 ++ rest) h
  have high : u16At p (i + 2) = n / 65536 % 2 ^ 16 := by
    refine u16At_of_drop (rest := rest) ?_
    rw [← List.drop_drop, h, u16, Nat.div_div_eq_div_mul]
    rfl
  rw [u32At, low, high]
  omega

/-- Every byte of a field of zeros is 0. -/
theorem u8At_of_drop_zeros (h : p.drop i = List.replicate n 0 ++ rest) {k : Nat} (low : i ≤ k) (high : k < i + n) :
    u8At p k = 0 := by
  have tail : (p.drop i).drop (k - i) = 0 :: (List.replicate (n - (k - i) - 1) 0 ++ rest) := by
    rw [h, List.drop_append_of_le_length (by rw [List.length_replicate]; omega), List.drop_replicate, ← List.cons_append,
      ← List.replicate_succ, Nat.sub_add_cancel (by omega)]
  rw [List.drop_drop, Nat.add_sub_cancel' low] at tail
  rw [u8At, byteAt_of_drop tail]
  rfl

/-- A number in range reads back as it was written, two's complement. -/
theorem i16At_of_drop {z : Int} (h : p.drop i = i16 z ++ rest) (low : -32768 ≤ z) (high : z ≤ 32767) : i16At p i = z := by
  have word : BitVec.ofNat 16 (u16At p i) = BitVec.ofInt 16 z := by
    refine BitVec.eq_of_toNat_eq ?_
    rw [u16At_of_drop h, BitVec.toNat_ofNat, Nat.mod_mod, Nat.mod_eq_of_lt (BitVec.isLt _)]
  rw [i16At, word, BitVec.toInt_ofInt]
  exact Int.bmod_eq_of_le (by omega) (by omega)

end

/-! ### The axle a request names -/

theorem readAxle_above {n : Nat} (h : 1 < n) : readAxle n = none := by
  match n, h with
  | n + 2, _ => rfl

@[simp] theorem readAxle_axleCode (x : Axle) : readAxle (axleCode x) = some x := by cases x <;> rfl

/-! ### LINK POST -/

section
variable {f : HostFrame} {s : State} {x : Axle}

theorem ownerLinkPost_noAxle (above : 1 < u8At f.payload 0) : ownerLinkPost f s = reply f .range [] s := by
  simp [ownerLinkPost, readAxle_above above]

variable (named : u8At f.payload 0 = axleCode x)
include named

theorem ownerLinkPost_noCode (zero : byteAt f.payload 1 = 0) : ownerLinkPost f s = reply f .range [] s := by
  simp [ownerLinkPost, named, zero]

theorem ownerLinkPost_busy (code : byteAt f.payload 1 ≠ 0)
    (busy : (s.link.get x).service.state = .queued ∨ (s.link.get x).service.state = .sent) :
    ownerLinkPost f s = reply f .busy [] s := by
  simp only [ownerLinkPost, named, readAxle_axleCode, if_neg code, if_pos busy]

theorem ownerLinkPost_queues (code : byteAt f.payload 1 ≠ 0) (notQueued : (s.link.get x).service.state ≠ .queued)
    (notSent : (s.link.get x).service.state ≠ .sent) :
    ownerLinkPost f s = reply f .ok [] (s.setLink x { s.link.get x with
      service := ⟨.queued, byteAt f.payload 1, u16At f.payload 2, 0⟩ }) := by
  simp only [ownerLinkPost, named, readAxle_axleCode, if_neg code, if_neg (not_or.2 ⟨notQueued, notSent⟩)]

end

/-- Settles O28: one equation of `ownerLinkPost` for each result. -/
theorem linkPostQueues : Obligations.LinkPostQueues := by
  intro s f
  refine ⟨fun head kind len standby => ?_, fun handed => ?_⟩
  · have refused := takeRequest_refused (k := .linkPost) head kind (by rw [len]; rfl) (by rw [standby]; rfl) ownerLinkPost
    refine ⟨reply f .state [] (popRequest s), ?_, answered_reply_popRequest _ _ _ _, reply_popRequest_only _ _ _ _⟩
    show inOperation (takeRequest .linkPost ownerLinkPost) s = _
    rw [inOperation, if_neg (by simp [head.1]), refused]
    rfl
  · have replies {r : ResultCode} (e : ownerLinkPost f (popRequest s) = reply f r [] (popRequest s)) :
        Answered f r [] s (ownerLinkPost f (popRequest s))
          ∧ OnlyChanges [.tx, .requests] s (ownerLinkPost f (popRequest s)) := by
      rw [e]
      exact ⟨answered_reply_popRequest _ _ _ _, reply_popRequest_only _ _ _ _⟩
    refine ⟨_, inOperation_handed handed ownerLinkPost, fun above => replies (ownerLinkPost_noAxle above), fun x named =>
      ⟨fun zero => replies (ownerLinkPost_noCode named zero), fun code busy => replies (ownerLinkPost_busy named code busy),
        fun code notQueued notSent => ?_⟩⟩
    have queued : OnlyChanges [.service x] (popRequest s) ((popRequest s).setLink x { s.link.get x with
        service := ⟨.queued, byteAt f.payload 1, u16At f.payload 2, 0⟩ }) := by
      apply setLink_only <;> simp [popRequest]
    have e : ownerLinkPost f (popRequest s) = _ := ownerLinkPost_queues named code notQueued notSent
    rw [e]
    refine ⟨answered_reply queued (by simp) (by simp) _ _, ?_, ?_⟩
    · exact reply_mono (by simp) _ _ _ (((popRequest_only s).mono (by simp)).trans (queued.mono (by simp)))
    · exact ((reply_only _ _ _ _) (.service x) (by simp)).trans (congrArg AxleLink.service (ByAxle.get_set_same _ _ _))

/-! ### LINK QUERY -/

/-- The fields of a last frame started that the ring holds; 0 and 0 for none (R125). -/
theorem lastStartedFields_eq (l : AxleLink) :
    lastStartedFields l = [((l.lastStarted.bind (ringFind l.ring)).getD ⟨0, 0, false, 0⟩).seq]
      ++ u32 ((l.lastStarted.bind (ringFind l.ring)).getD ⟨0, 0, false, 0⟩).period := by
  unfold lastStartedFields
  cases l.lastStarted.bind (ringFind l.ring) <;> rfl

theorem statusRecordFields_eq (o : Option StatusRecord) :
    statusRecordFields o = [(o.getD ⟨0, 0, 0, 0, 0⟩).flags] ++ i16 (o.getD ⟨0, 0, 0, 0, 0⟩).torque
      ++ u16 (o.getD ⟨0, 0, 0, 0, 0⟩).availDrive ++ u16 (o.getD ⟨0, 0, 0, 0, 0⟩).availRegen
      ++ i16 (o.getD ⟨0, 0, 0, 0, 0⟩).speed := by
  cases o <;> rfl

theorem noticeFields_eq (o : Option (Byte × Nat)) :
    noticeFields o = u8 (flag o.isSome) ++ [(o.getD (0, 0)).1] ++ u16 (o.getD (0, 0)).2 := by
  cases o <;> rfl

/-- The payload of a LINK QUERY reply, field by field (R172). -/
theorem queryPayload_eq (l : AxleLink) {e : RingEntry} {r : StatusRecord} {n : Byte × Nat}
    (he : e = (l.lastStarted.bind (ringFind l.ring)).getD ⟨0, 0, false, 0⟩) (hr : r = l.lastStatus.getD ⟨0, 0, 0, 0, 0⟩)
    (hn : n = l.notice.getD (0, 0)) :
    u8 ResultCode.ok.code ++ queryFields l
      = u8 0 ++ (u8 (flag l.acceptedSinceReady) ++ u8 l.state.code ++ u8 l.recovery ++ ([e.seq] ++ u32 e.period)
        ++ ([r.flags] ++ i16 r.torque ++ u16 r.availDrive ++ u16 r.availRegen ++ i16 r.speed)
        ++ (u8 (flag l.notice.isSome) ++ [n.1] ++ u16 n.2)
        ++ u8 l.service.state.code ++ [l.service.code] ++ u8 l.service.sentCount ++ l.counters.fields) := by
  rw [queryFields, lastStartedFields_eq, statusRecordFields_eq, noticeFields_eq, he, hr, hn]
  rfl

theorem afterQuery_notice {l : AxleLink} {c : Byte} {a : Nat} (h : l.notice = some (c, a)) :
    l.afterQuery.notice = none ∧ l.afterQuery.ackCode = some c ∧ l.afterQuery.lostNotice = none := by
  simp only [AxleLink.afterQuery, h]
  split <;> exact ⟨rfl, rfl, rfl⟩

theorem afterQuery_noNotice {l : AxleLink} (h : l.notice = none) :
    l.afterQuery.notice = none ∧ l.afterQuery.ackCode = l.ackCode ∧ l.afterQuery.lostNotice = l.lostNotice := by
  simp only [AxleLink.afterQuery, h]
  split <;> simp [h]

/-- A query empties a finished outbound slot, and leaves one that is not (R125). -/
theorem afterQuery_service (l : AxleLink) :
    l.afterQuery.service
      = if l.service.state = .done ∨ l.service.state = .timedOut then ServiceSlot.reset else l.service := by
  unfold AxleLink.afterQuery
  dsimp only
  cases l.notice <;> cases h : l.service.state <;> simp

theorem afterQuery_only (s : State) (x : Axle) :
    OnlyChanges [.notices x, .service x] s (s.setLink x (s.link.get x).afterQuery) := by
  apply setLink_only <;> (unfold AxleLink.afterQuery; dsimp only; split <;> split <;> simp)

/-- The frame of a query, from the request queue to the reply. -/
theorem reply_afterQuery (f : HostFrame) (p : List Byte) (s : State) (x : Axle) :
    Answered f .ok p s (reply f .ok p ((popRequest s).setLink x (s.link.get x).afterQuery))
      ∧ OnlyChanges [.notices x, .service x, .tx, .requests] s
          (reply f .ok p ((popRequest s).setLink x (s.link.get x).afterQuery))
      ∧ (reply f .ok p ((popRequest s).setLink x (s.link.get x).afterQuery)).link.get x = (s.link.get x).afterQuery := by
  have queried : OnlyChanges [.notices x, .service x] (popRequest s) ((popRequest s).setLink x (s.link.get x).afterQuery) :=
    afterQuery_only (popRequest s) x
  refine ⟨answered_reply queried (by simp) (by simp) _ _, ?_, ?_⟩
  · exact reply_mono (by simp) _ _ _ (((popRequest_only s).mono (by simp)).trans (queried.mono (by simp)))
  · exact ((reply_only _ _ _ _).link_eq x (by simp [linkParts])).trans (ByAxle.get_set_same _ _ _)

theorem LinkState.code_lt (st : LinkState) : st.code < 256 := by cases st <;> decide

theorem ServiceState.code_lt (st : ServiceState) : st.code < 256 := by cases st <;> decide

/-- Settles O27: the reply's bytes are `queryPayload_eq`, each field read at its offset; what the query leaves of the link is
`AxleLink.afterQuery`. -/
theorem linkQueryReply : Obligations.LinkQueryReply := by
  intro s f h
  refine ⟨_, inOperation_handed h ownerLinkQuery, fun above => ?_, ?_⟩
  · have e : ownerLinkQuery f (popRequest s) = reply f .range (List.replicate 40 0) (popRequest s) := by
      simp [ownerLinkQuery, readAxle_above above]
    rw [e]
    exact ⟨answered_reply_popRequest _ _ _ _, reply_popRequest_only _ _ _ _⟩
  rintro x l named rfl
  have e : ownerLinkQuery f (popRequest s)
      = reply f .ok (queryFields (s.link.get x)) ((popRequest s).setLink x (s.link.get x).afterQuery) := by
    simp only [ownerLinkQuery, named, readAxle_axleCode]
    rfl
  have kind : f.kind + 0x80#8 = 0xB0#8 := by
    obtain ⟨-, -, -, -, kind, -⟩ := h
    rw [kind]
    rfl
  obtain ⟨⟨queue, out⟩, only, link⟩ := reply_afterQuery f (queryFields (s.link.get x)) s x
  rw [kind] at out
  rw [e]
  refine ⟨_, queue, out, ?_⟩
  rw [link]
  clear e link queue out
  generalize reply f .ok (queryFields (s.link.get x)) _ = t at only ⊢
  generalize s.link.get x = l
  obtain ⟨e, he⟩ : ∃ e, e = (l.lastStarted.bind (ringFind l.ring)).getD ⟨0, 0, false, 0⟩ := ⟨_, rfl⟩
  obtain ⟨r, hr⟩ : ∃ r, r = l.lastStatus.getD ⟨0, 0, 0, 0, 0⟩ := ⟨_, rfl⟩
  obtain ⟨n, hn⟩ : ∃ n, n = l.notice.getD (0, 0) := ⟨_, rfl⟩
  rw [queryPayload_eq l he hr hn]
  refine ⟨rfl, rfl, ?_, ?_, u8At_of_drop rfl, fun q v started found => ?_, fun none => ?_, fun v some => ?_,
    fun none i low high => ?_, fun c a some => ?_, fun none i low high => ?_, ?_, byteAt_of_drop rfl,
    u8At_of_drop rfl, u16At_of_drop rfl, u16At_of_drop rfl,
    u16At_of_drop rfl, u16At_of_drop rfl, u16At_of_drop rfl,
    u16At_of_drop rfl, u16At_of_drop rfl, u16At_of_drop rfl,
    fun c a some => afterQuery_notice some, fun none => afterQuery_noNotice none, fun finished => ?_,
    fun notDone notTimedOut => ?_, only⟩
  · cases l.acceptedSinceReady <;> rfl
  · exact (u8At_of_drop rfl).trans (Nat.mod_eq_of_lt l.state.code_lt)
  · have entry : e = v := by rw [he, started, Option.bind_some, ringFind, found, Option.getD_some]
    have seq : v.seq = q := by simpa using List.find?_some found
    rw [entry]
    exact ⟨(byteAt_of_drop rfl).trans seq, u32At_of_drop rfl⟩
  · rw [none, Option.bind_none, Option.getD_none] at he
    rw [he]
    exact ⟨rfl, rfl⟩
  · rw [some, Option.getD_some] at hr
    rw [hr]
    exact ⟨byteAt_of_drop rfl, u16At_of_drop rfl, u16At_of_drop rfl,
      i16At_of_drop rfl, i16At_of_drop rfl⟩
  · rw [none, Option.getD_none] at hr
    rw [hr]
    exact u8At_of_drop_zeros (n := 9) rfl low (by omega)
  · rw [some, Option.getD_some] at hn
    rw [hn, some]
    exact ⟨rfl, byteAt_of_drop rfl, u16At_of_drop rfl⟩
  · rw [none, Option.getD_none] at hn
    rw [hn, none]
    exact u8At_of_drop_zeros (n := 4) rfl low (by omega)
  · exact (u8At_of_drop rfl).trans (Nat.mod_eq_of_lt l.service.state.code_lt)
  · rw [afterQuery_service, if_pos finished]
    rfl
  · rw [afterQuery_service, if_neg (not_or.2 ⟨notDone, notTimedOut⟩)]

end Sys2Proof.Machine
end

section
/-! The end of a command frame or of a torque-off break, the frame that then starts, and the trip that discards it first (O45). -/

namespace Sys2Proof.Machine

/-! ### The commands -/

section
variable {s : State} {x : Axle}

theorem exec_commandFrameComplete (operating : s.resetnLow = false) (x : Axle) (met : Option MetTrip) :
    exec (.commandFrameComplete x met) s = .next (frameEnds x met s) := by
  show inOperation (frameEnds x met) s = _
  simp [inOperation, operating]

theorem exec_breakEnd (operating : s.resetnLow = false) (x : Axle) : exec (.breakEnd x) s = .next (breakEnds x s) := by
  show inOperation (breakEnds x) s = _
  simp [inOperation, operating]

/-- A frame in flight completes, and no trip meets it (R108). -/
theorem exec_completion (c : Clocked s) (flight : (s.link.get x).inFlight.isSome = true) :
    exec (.commandFrameComplete x) s = .next (startWaiting x (freeLine x s)) := by
  rw [exec_commandFrameComplete c.1, frameEnds_none, frameCompletes_inFlight c.2 flight]

/-- A frame in flight completes, and a trip meets it (R108). -/
theorem exec_metCompletion (c : Clocked s) (flight : (s.link.get x).inFlight.isSome = true) (m : MetTrip) :
    exec (.commandFrameComplete x (some m)) s = .next (meetTrip x m s) := by
  rw [exec_commandFrameComplete c.1, frameEnds_met c.2 flight]

end

/-! ### The start of the frame that waits (R106, R107, R124) -/

theorem startWaiting_none {x : Axle} {s : State} (h : (s.link.get x).waiting = none) : startWaiting x s = s := by
  simp [startWaiting, h]

/-- The link after a waiting frame has started on a line that was freed. -/
theorem startWaiting_link {x : Axle} {s : State} {l : AxleLink} {g : FormedFrame} {armed : Bool} (hl : l = s.link.get x)
    (ha : armed = decide (s.oc.state = .armed)) (waits : l.waiting = some g) :
    (startWaiting x s).link.get x = { l with
      waiting := none
      ring := if g.enable && !armed then clearRingEntry l.ring g.seq else l.ring
      service := l.service.atStart.1
      inFlight := some (fillFrame g armed l.service.atStart.2 l.ackCode)
      txBits := 0
      lastStarted := some g.seq
      counters := { l.counters with
        framesSent := min (l.counters.framesSent + 1) 65535
        serviceTimeouts := if l.service.state = .sent ∧ 16 ≤ l.service.sentCount then
          min (l.counters.serviceTimeouts + 1) 65535 else l.counters.serviceTimeouts } } := by
  subst hl ha
  simp only [startWaiting, waits, startFrame]
  simp only [State.setLink, ByAxle.get_set_same, ← ServiceSlot.timesOut_iff]
  rfl

/-- A frame that starts takes torque 0 where its enable flag is cleared (R107). -/
theorem fillFrame_torque (g : FormedFrame) (a : Prop) [Decidable a] (service : Option (Byte × Nat)) (ack : Option Byte) :
    (fillFrame g (decide a) service ack).torque = if g.enable = true ∧ ¬a then 0 else g.torque := by
  show (if (g.enable && !decide a) = true then 0 else g.torque) = _
  simp

/-- A completion or a break's end frees the line, with nothing else changed, and a waiting frame starts. -/
theorem exec_freesLine {s : State} {x : Axle} {l base : AxleLink} {c : Instr} (hl : l = s.link.get x)
    (h : (Clocked s ∧ l.inFlight.isSome = true ∧ c = .commandFrameComplete x
          ∧ base = { l with inFlight := none, txBits := 0 })
        ∨ (s.resetnLow = false ∧ l.breakSending = true ∧ c = .breakEnd x ∧ base = { l with breakSending := false })) :
    exec c s = .next (startWaiting x (s.setLink x base))
      ∧ ∃ flight bits brk, base = { l with inFlight := flight, txBits := bits, breakSending := brk } := by
  subst hl
  rcases h with ⟨clocked, flight, rfl, rfl⟩ | ⟨operating, brk, rfl, rfl⟩
  · exact ⟨exec_completion clocked flight, none, 0, _, rfl⟩
  · rw [exec_breakEnd operating, breakEnds, if_pos brk]
    exact ⟨rfl, _, _, false, rfl⟩

/-! ### A trip that meets the completion -/

/-- A line of a link after a trip: the break is being sent, and no frame is in flight or waits (R110). -/
def AxleLink.cut (l : AxleLink) : AxleLink :=
  { l with inFlight := none, txBits := 0, waiting := none, breakSending := true }

/-- From `s` to `u` frames in flight have completed, and none that waits has started. -/
structure LinesFreed (s u : State) : Prop where
  only : OnlyChanges [.line .front, .line .rear] s u
  cut : ∀ z, (u.link.get z).cut = (s.link.get z).cut

theorem LinesFreed.freeLine {s u : State} (h : LinesFreed s u) (x : Axle) : LinesFreed s (freeLine x u) where
  only := h.only.trans ((freeLine_only x u).mono (by cases x <;> simp))
  cut z := (h.cut z).symm ▸ by cases x <;> cases z <;> rfl

/-- An event that brings both links the break, however many frames complete before it, comes after the completions and before
the start of a frame that waits (R108). -/
theorem completions_then_break {s : State} {x : Axle} {event : State → State} (both : Bool)
    (flight : (s.link.get x).inFlight.isSome = true)
    (brk : ∀ u, LinesFreed s u → ∀ z, ((event u).link.get z).breakSending = true) :
    ∃ u, LinesFreed s u
      ∧ completesFirst x (if both then completesFirst (otherAxle x) event else event) s = event u := by
  have one : LinesFreed s (freeLine x s) := LinesFreed.freeLine ⟨.refl _ s, fun _ => rfl⟩ x
  cases both with
  | false => exact ⟨_, one, completesFirst_break flight (brk _ one x)⟩
  | true =>
    have two := one.freeLine (otherAxle x)
    obtain ⟨u, freed, other⟩ : ∃ u, LinesFreed s u ∧ completesFirst (otherAxle x) event (freeLine x s) = event u := by
      cases busy : ((freeLine x s).link.get (otherAxle x)).inFlight with
      | none => exact ⟨_, one, completesFirst_idle busy⟩
      | some g => exact ⟨_, two, completesFirst_break (by rw [busy]; rfl) (brk _ two _)⟩
    refine ⟨u, freed, ?_⟩
    rw [if_pos rfl, completesFirst_break flight (by rw [other]; exact brk u freed x), other]

/-- The trip of one event, no other completion before it. -/
theorem meetTrip_one (x : Axle) (e : TripEvent) (s : State) :
    meetTrip x ⟨e, false⟩ s = completesFirst x (takeTripEvent e) s := rfl

/-! ### TORQUE OFF (R137) -/

/-- Outside ARMED a trip changes Output Control and the lines alone (R136). -/
theorem trip_only_unarmed {s : State} (h : s.oc.state ≠ .armed) (cause : TripCause) :
    OnlyChanges [.oc, .line .front, .line .rear] s (trip cause s) := by
  have brk (v : OutputControl) :
      OnlyChanges [.oc, .line .front, .line .rear] s (torqueOffBreak .rear (torqueOffBreak .front (s.setOc v))) :=
    (((setOc_only s v).mono (by simp)).trans ((torqueOffBreak_only .front _).mono (by simp))).trans
      ((torqueOffBreak_only .rear _).mono (by simp))
  unfold trip
  split
  · exact .refl _ _
  · split
    · exact .refl _ _
    · exact brk _
    · exact brk _
    · contradiction

/-- Where OC is not TRIPPED, a trip leaves it TRIPPED with this cause and the period number as it stands (R136). -/
theorem trip_record {s : State} (ready : s.hp.part ≠ .standby) (h : s.oc.state ≠ .tripped) (cause : TripCause) :
    (trip cause s).oc.state = .tripped ∧ (trip cause s).oc.tripRecord = some ⟨cause, s.se.periodNumber⟩ := by
  rw [trip_oc, if_neg ready]
  refine ⟨tripOc_state _ _ _, ?_⟩
  unfold tripOc
  split
  · contradiction
  all_goals rfl

section
variable {f : HostFrame} {s : State} (h : Handed .torqueOff f s) (state : s.oc.state ≠ .tripped)
include h

theorem Handed.torqueOff_ready : s.hp.part ≠ .standby := by
  obtain ⟨-, -, -, -, -, -, taken⟩ := h
  intro standby
  rw [standby] at taken
  cases taken

include state

/-- A TORQUE OFF trips, and its reply carries the trip record (R137). -/
theorem takeTorqueOff : takeRequest .torqueOff ownerTorqueOff s
    = reply f .ok ([0xFF#8] ++ u32 s.se.periodNumber) (trip .host (popRequest s)) := by
  have record := (trip_record (s := popRequest s) h.torqueOff_ready state .host).2
  rw [takeRequest_handed h, ownerTorqueOff, record]
  rfl

/-- A TORQUE OFF brings both links the break (R110, R137). -/
theorem takeTorqueOff_link (z : Axle) :
    (takeRequest .torqueOff ownerTorqueOff s).link.get z = (s.link.get z).cut := by
  rw [takeTorqueOff h state, (reply_only _ _ _ _).link_eq z (by simp [linkParts])]
  exact trip_link (s := popRequest s) h.torqueOff_ready state .host z

theorem takeTorqueOff_oc : (takeRequest .torqueOff ownerTorqueOff s).oc.state = .tripped
    ∧ (takeRequest .torqueOff ownerTorqueOff s).oc.tripRecord = some ⟨.host, s.se.periodNumber⟩ := by
  rw [takeTorqueOff h state, (reply_only _ _ _ _).oc_eq (by simp)]
  exact trip_record (s := popRequest s) h.torqueOff_ready state .host

theorem takeTorqueOff_answered :
    Answered f .ok ([0xFF#8] ++ u32 s.se.periodNumber) s (takeRequest .torqueOff ownerTorqueOff s) := by
  rw [takeTorqueOff h state]
  exact answered_reply (trip_quiet .host (popRequest s)) (by simp [leavingParts]) (by simp [leavingParts]) _ _

theorem takeTorqueOff_only_unarmed (unarmed : s.oc.state ≠ .armed) :
    OnlyChanges [.oc, .line .front, .line .rear, .tx, .requests] s (takeRequest .torqueOff ownerTorqueOff s) := by
  rw [takeTorqueOff h state]
  exact reply_mono (by simp) _ _ _ (((popRequest_only s).mono (by simp)).trans
    ((trip_only_unarmed (s := popRequest s) unarmed .host).mono (by simp)))

end

/-- A request at the head of the queue is there whatever the lines do. -/
theorem Handed.of_linesFreed {k : RequestKind} {f : HostFrame} {s u : State} (h : Handed k f s) (freed : LinesFreed s u) :
    Handed k f u := by
  have only := freed.only
  unfold Handed
  rw [only.resetn_eq (by simp), only.resetTaken_eq (by simp), only.txQueue_eq (by simp), only.pendingSync_eq (by simp),
    only.requestQueue_eq (by simp), only.part_eq (by simp)]
  exact h

/-- A TORQUE OFF that both completions, or one, come before (R108, R137). -/
theorem torqueOff_meets {s : State} {x : Axle} {f : HostFrame} (both : Bool)
    (flight : (s.link.get x).inFlight.isSome = true) (h : Handed .torqueOff f s) (state : s.oc.state ≠ .tripped) {t : State}
    (ht : t = meetTrip x ⟨.torqueOff, both⟩ s) :
    Answered f .ok ([0xFF#8] ++ u32 s.se.periodNumber) s t
      ∧ t.oc.state = .tripped ∧ t.oc.tripRecord = some ⟨.host, s.se.periodNumber⟩
      ∧ (∀ z, t.link.get z = (s.link.get z).cut)
      ∧ (s.oc.state ≠ .armed → OnlyChanges [.oc, .line .front, .line .rear, .tx, .requests] s t) := by
  have stateOf {u : State} (freed : LinesFreed s u) : u.oc = s.oc := freed.only.oc_eq (by simp)
  have notTripped {u : State} (freed : LinesFreed s u) : u.oc.state ≠ .tripped := by rw [stateOf freed]; exact state
  obtain ⟨u, freed, taken⟩ := completions_then_break (event := takeRequest .torqueOff ownerTorqueOff) both flight
    fun u freed z => by rw [takeTorqueOff_link (h.of_linesFreed freed) (notTripped freed)]; rfl
  replace ht : t = takeRequest .torqueOff ownerTorqueOff u := ht.trans taken
  have handed := h.of_linesFreed freed
  obtain ⟨queue, out⟩ := takeTorqueOff_answered handed (notTripped freed)
  obtain ⟨tripped, record⟩ := takeTorqueOff_oc handed (notTripped freed)
  have period : u.se = s.se := freed.only.se_eq (by simp)
  rw [← ht] at queue out tripped record
  rw [period] at out record
  rw [freed.only.requestQueue_eq (by simp)] at queue
  rw [freed.only.outbox_eq (by simp)] at out
  refine ⟨⟨queue, out⟩, tripped, record, fun z => ?_, fun unarmed => ?_⟩
  · rw [ht, takeTorqueOff_link handed (notTripped freed), freed.cut]
  · rw [ht]
    refine (freed.only.mono (by simp)).trans (takeTorqueOff_only_unarmed handed (notTripped freed) ?_)
    rw [stateOf freed]
    exact unarmed

/-! ### The other events, and the trip of a DEMAND_STALE -/

/-- An event other than a period operation is what its command does. -/
theorem exec_tripEvent {e : TripEvent} {c : Instr} {z : Axle} {edges : Nat} {y : State} (operating : y.resetnLow = false)
    (h : (e, c) ∈ [(TripEvent.torqueOff, Instr.torqueOff), (.faultTest, .faultTest), (.linkTimer z, .linkTimerExpiry z),
      (.lineLow z, .lineLow90us z), (.windowEnd edges, .clockCheckWindowEnd edges)]) :
    exec c y = .next (takeTripEvent e y) := by
  have acts (effect : State → State) : inOperation effect y = .next (effect y) := by simp [inOperation, operating]
  simp only [List.mem_cons, Prod.mk.injEq, List.not_mem_nil, or_false] at h
  rcases h with ⟨rfl, rfl⟩ | ⟨rfl, rfl⟩ | ⟨rfl, rfl⟩ | ⟨rfl, rfl⟩ | ⟨rfl, rfl⟩
  · exact acts (takeRequest .torqueOff ownerTorqueOff)
  · exact acts (takeRequest .faultTest ownerFaultTest)
  · exact acts fun y => if msTimerRuns y then linkTimerExpires z y else y
  · exact acts fun y => lineLow z y
  · exact acts fun y => judgeWindow edges y

/-- An operation that does not get to its issue, or has made it (R4, R15). -/
def NoIssue (through : Stage) (s : State) : Prop :=
  stageNumber through < stageNumber .issue ∨ ∃ w, s.se.work = some w ∧ stageNumber .issue ≤ w.done

theorem tripStage_noIssue {through : Stage} {s : State} (h : NoIssue through s) : tripStage through s = through := by
  have early (before : stageNumber through < stageNumber .issue) : gapLimit .inverter through = through := by
    rw [gapLimit, if_neg]
    rintro ⟨-, later⟩
    exact absurd before (Nat.not_lt.2 later)
  unfold tripStage
  split
  · rename_i w work
    split
    · rfl
    · rename_i notIssued
      refine early (h.resolve_right ?_)
      rintro ⟨w', work', issued⟩
      rw [work] at work'
      cases work'
      exact notIssued issued
  · rename_i work
    refine early (h.resolve_right ?_)
    rintro ⟨w', work', -⟩
    rw [work] at work'
    cases work'

/-- An operation that would come to its issue gets to stage 9 (R107, R108). -/
theorem tripStage_issue {through : Stage} {s : State} (far : stageNumber .issue ≤ stageNumber through)
    (notIssued : ∀ w, s.se.work = some w → w.done < stageNumber .issue) : tripStage through s = .shortfall := by
  have stops : gapLimit .inverter through = .shortfall := if_pos ⟨rfl, far⟩
  unfold tripStage
  split
  · rename_i w work
    rw [if_neg (Nat.not_le.2 (notIssued w work)), stops]
  · exact stops

/-- No trip of a DEMAND_STALE is due before the next stage. -/
theorem takeDueTrip_none {s : State} (h : ∀ w, s.se.work = some w → w.staleTripAt ≠ some (w.done + 1)) :
    takeDueTrip s = s := by
  unfold takeDueTrip
  split
  · rename_i w work
    simp only [takeStaleTrip, if_neg (h w work)]
    rw [← work]
    rfl
  · rfl

/-- The trip of a DEMAND_STALE that is due is taken (R39). -/
theorem takeDueTrip_due {s : State} {w : PeriodWork} (work : s.se.work = some w) (due : w.staleTripAt = some (w.done + 1)) :
    takeDueTrip s = (trip (.fault .demandStale) s).setSe
      { (trip (.fault .demandStale) s).se with work := some { w with staleTripAt := none } } := by
  simp only [takeDueTrip, work, takeStaleTrip, if_pos due]

theorem exec_tripPeriod {through : Stage} {slip : SlipOrder} {y : State} (operating : y.resetnLow = false)
    (early : NoIssue through y)
    (noTrip : ∀ r w, exec (.periodExpiry through slip) y = .next r → r.se.work = some w → w.staleTripAt ≠ some (w.done + 1)) :
    exec (.periodExpiry through slip) y = .next (takeTripEvent (.period through slip) y) := by
  rw [exec_periodExpiry operating, takeTripEvent, tripStage_noIssue early,
    takeDueTrip_none fun w => noTrip _ w (exec_periodExpiry operating _ _)]

/-- An event that meets the completion of a frame is its command on the free line, where that brings the link the break, and
otherwise its command after the start of the waiting frame (R108). -/
theorem exec_metCompletion_eq {s u v : State} {x : Axle} {e : TripEvent} {c : Instr} (clocked : Clocked s)
    (flight : (s.link.get x).inFlight.isSome = true) (hu : u = freeLine x s) (hv : v = startWaiting x u)
    (atFree : exec c u = .next (takeTripEvent e u)) (atStart : exec c v = .next (takeTripEvent e v)) :
    ∃ t, exec c u = .next t
      ∧ exec (.commandFrameComplete x (some ⟨e, false⟩)) s = if (t.link.get x).breakSending then .next t else exec c v := by
  subst hu hv
  refine ⟨_, atFree, ?_⟩
  rw [exec_metCompletion clocked flight, meetTrip_one, atStart]
  cases brk : ((takeTripEvent e (freeLine x s)).link.get x).breakSending with
  | true => rw [completesFirst_break flight brk, if_pos rfl]
  | false => rw [completesFirst_noBreak flight brk, if_neg (by decide)]

/-- A completion and the start of the waiting frame leave the period operation as it is. -/
theorem freed_se (x : Axle) (s : State) :
    (freeLine x s).se = s.se ∧ (startWaiting x (freeLine x s)).se = s.se :=
  ⟨rfl, (startWaiting_only x _).se_eq (by simp)⟩

/-- A trip of a DEMAND_STALE that the link takes before its waiting frame starts (R39, R108). -/
theorem staleTrip_meets {s t : State} {x : Axle} {through : Stage} {slip : SlipOrder} {w : PeriodWork} (clocked : Clocked s)
    (flight : (s.link.get x).inFlight.isSome = true) (early : NoIssue through s)
    (ht : exec (.periodExpiry through slip) (freeLine x s) = .next t) (work : t.se.work = some w)
    (due : w.staleTripAt = some (w.done + 1)) (ready : t.hp.part ≠ .standby) (state : t.oc.state ≠ .tripped) :
    exec (.commandFrameComplete x (some ⟨.period through slip, false⟩)) s = .next (takeDueTrip t)
      ∧ ∀ z, (takeDueTrip t).link.get z = (t.link.get z).cut := by
  have expired : periodExpiry through (freeLine x s) slip = t := by
    rw [exec_periodExpiry (s := freeLine x s) clocked.1] at ht
    injection ht
  have event : takeTripEvent (.period through slip) (freeLine x s) = takeDueTrip t := by
    rw [takeTripEvent, tripStage_noIssue (s := freeLine x s) early, expired]
  have link (z : Axle) : (takeDueTrip t).link.get z = (t.link.get z).cut := by
    rw [takeDueTrip_due work due]
    exact trip_link ready state _ z
  refine ⟨?_, link⟩
  rw [exec_metCompletion clocked flight, meetTrip_one, completesFirst_break flight (by rw [event, link]; rfl), event]

/-- An operation that would come to its issue is, between the completion and the start, one that gets to stage 9 (R107, R108). -/
theorem exec_metPeriod_issue {through : Stage} {s : State} (far : stageNumber .issue ≤ stageNumber through)
    (notIssued : ∀ w, s.se.work = some w → w.done < stageNumber .issue) (x : Axle) (slip : SlipOrder) :
    exec (.commandFrameComplete x (some ⟨.period through slip, false⟩)) s
      = exec (.commandFrameComplete x (some ⟨.period .shortfall slip, false⟩)) s := by
  have same {y : State} (se : y.se = s.se) :
      takeTripEvent (.period through slip) y = takeTripEvent (.period .shortfall slip) y := by
    rw [takeTripEvent, takeTripEvent, tripStage_issue far (by rw [se]; exact notIssued),
      tripStage_noIssue (through := .shortfall) (.inl (by decide))]
  obtain ⟨free, started⟩ := freed_se x s
  have meets : meetTrip x ⟨.period through slip, false⟩ s = meetTrip x ⟨.period .shortfall slip, false⟩ s := by
    rw [meetTrip_one, meetTrip_one, completesFirst, completesFirst, same free, same started, same rfl]
  show inOperation _ s = inOperation _ s
  simp only [inOperation, frameEnds, meets]

/-! ### What a software reset left on the line (R111) -/

theorem setTail_only (s : State) (x : Axle) (t : LineTail) :
    OnlyChanges [.line x] s (s.setLink x { s.link.get x with tail := t }) := by
  apply setLink_only <;> simp

/-- A frame left on the line ends, and no trip meets that. -/
theorem exec_tailFrame {s : State} {x : Axle} {g : StartedFrame} {bits : Nat} (c : Clocked s)
    (idle : (s.link.get x).inFlight = none) (tail : (s.link.get x).tail = .frame g bits) (met : Option MetTrip) :
    exec (.commandFrameComplete x met) s = .next (s.setLink x { s.link.get x with tail := .none }) := by
  rw [exec_commandFrameComplete c.1, frameEnds_idle (.inr idle)]
  simp only [frameCompletes, c.2, idle, tailFrameEnds, tail, if_true]

/-- A break left on the line ends. -/
theorem exec_tailBreak {s : State} {x : Axle} (operating : s.resetnLow = false) (noBreak : (s.link.get x).breakSending = false)
    (tail : (s.link.get x).tail = .brk) :
    exec (.breakEnd x) s = .next (s.setLink x { s.link.get x with tail := .none }) := by
  rw [exec_breakEnd operating]
  simp only [breakEnds, noBreak, tailBreakEnds, tail, Bool.false_eq_true, if_false]

/-- Settles O45: the line is freed and `startWaiting_link` says what starts; a trip that meets the completion is
`torqueOff_meets`, `staleTrip_meets` or, for the other events, `exec_metCompletion_eq`. -/
theorem lineFreedStartsWaiting : Obligations.LineFreedStartsWaiting := by
  refine ⟨fun s x l base c hl h => ?_, fun s x f both clocked flight handed state => ?_,
    fun s u v x z through slip edges e c clocked flight hu hv h => ?_,
    fun s t x through slip w clocked flight early ht work due ready state => ?_, fun s x through slip far notIssued => ?_,
    fun s x g bits met clocked idle tail => ?_, fun s x met => ?_, fun s x operating noBreak tail => ?_⟩
  · obtain ⟨e, flight, bits, brk, hbase⟩ := exec_freesLine hl h
    clear h
    have freed : OnlyChanges [.line x] s (s.setLink x base) := by
      subst hl hbase
      apply setLink_only <;> simp
    have waiting : base.waiting = l.waiting := by rw [hbase]
    refine ⟨_, e, fun none => ?_, fun g waits => ?_⟩
    · rw [startWaiting_none (by simpa [waiting] using none)]
      exact ⟨ByAxle.get_set_same _ _ _, freed⟩
    · rw [startWaiting_link (s := s.setLink x base) (ByAxle.get_set_same _ _ _).symm rfl (waiting.trans waits)]
      subst hbase
      refine ⟨_, rfl, rfl, rfl, rfl, rfl, rfl, fillFrame_torque g _ _ _, rfl, rfl, rfl, rfl, fun stands => if_neg ?_,
        fun enabled unarmed => if_pos ?_, rfl, fun queued => ?_, fun sent few => ?_, fun sent many => ?_, fun idle => ?_, rfl,
        rfl, (freed.mono (by simp)).trans (startWaiting_only x _)⟩
      · rcases stands with disabled | armed
        · simp [disabled]
        · simp [armed]
      · simp [enabled, unarmed]
      · exact ⟨congrArg Prod.snd (ServiceSlot.atStart_queued queued), congrArg Prod.fst (ServiceSlot.atStart_queued queued)⟩
      · exact ⟨congrArg Prod.snd (ServiceSlot.atStart_sent sent few), congrArg Prod.fst (ServiceSlot.atStart_sent sent few)⟩
      · exact ⟨congrArg Prod.snd (ServiceSlot.atStart_last sent many), congrArg Prod.fst (ServiceSlot.atStart_last sent many)⟩
      · exact ⟨congrArg Prod.snd (ServiceSlot.atStart_idle idle), congrArg Prod.fst (ServiceSlot.atStart_idle idle)⟩
  · exact ⟨_, exec_metCompletion clocked flight _, torqueOff_meets both flight handed state rfl⟩
  · have started : v = startWaiting x u := by
      rw [exec_completion clocked flight] at hv
      injection hv with hv
      rw [hu]
      exact hv.symm
    have command {y : State} (among : y ∈ [u, v]) (operating : y.resetnLow = false) (se : y.se = s.se) :
        exec c y = .next (takeTripEvent e y) := by
      rcases h with listed | ⟨rfl, rfl, early, noTrip⟩
      · exact exec_tripEvent operating listed
      · exact exec_tripPeriod operating (by rw [NoIssue, se]; exact early) (noTrip y among)
    have only := startWaiting_only x u
    have operating : u.resetnLow = false := by rw [hu]; exact clocked.1
    have se : u.se = s.se := by rw [hu]; rfl
    refine exec_metCompletion_eq clocked flight hu started (command (by simp) operating se) (command (by simp) ?_ ?_)
    · rw [started, only.resetn_eq (by simp), operating]
    · rw [started, only.se_eq (by simp), se]
  · have notStandby : t.hp.part ≠ .standby := by rw [ready]; decide
    obtain ⟨e, link⟩ := staleTrip_meets clocked flight early ht work due notStandby state
    obtain ⟨tripped, record⟩ := trip_record notStandby state (.fault .demandStale)
    refine ⟨_, e, ?_, ?_, ?_, link⟩
    · rw [takeDueTrip_due work due]
      exact tripped
    · rw [takeDueTrip_due work due]
      exact record
    · rw [takeDueTrip_due work due, State.setSe_se, (trip_only _ _).se_eq (by simp [tripParts])]
  · exact exec_metPeriod_issue far notIssued x slip
  · exact ⟨_, exec_tailFrame clocked idle tail met, ByAxle.get_set_same _ _ _, setTail_only s x .none⟩
  · exact ⟨_, (rfl : inOperation (frameEnds x met) s = _)⟩
  · exact ⟨_, exec_tailBreak operating noBreak tail, ByAxle.get_set_same _ _ _, setTail_only s x .none⟩

end Sys2Proof.Machine
end

section
/-! The receive side of an axle link: how bytes become frames, and bad status frames (O48). -/

namespace Sys2Proof.Machine

/-! ### Bytes of a frame as they arrive (R112, R113) -/

section
variable (x : Axle) (s : State) (bytes held : List Byte)

theorem setPartial_link : (setPartial x bytes s).link.get x
    = { s.link.get x with partialBytes := bytes, rxGapUs := 0, lowLineUs := 0 } := ByAxle.get_set_same _ _ _

theorem setPartial_setPartial : setPartial x bytes (setPartial x held s) = setPartial x bytes s := by
  cases x <;> rfl

end

theorem beginsWithSync_iff (bytes : List Byte) :
    beginsWithSync bytes = true ↔ ∃ rest, bytes = 0x6B#8 :: 0x94#8 :: rest := by
  constructor
  · intro h
    unfold beginsWithSync at h
    split at h
    · exact ⟨_, rfl⟩
    · cases h
  · rintro ⟨rest, rfl⟩
    rfl

/-- The scan keeps every part of a frame that begins with the sync word (R113). -/
theorem scanSync_take {bytes : List Byte} (sync : beginsWithSync bytes = true) (n : Nat) :
    scanSync (bytes.take n) = bytes.take n := by
  obtain ⟨rest, rfl⟩ := (beginsWithSync_iff bytes).1 sync
  match n with
  | 0 => rfl
  | 1 => rfl
  | n + 2 => rfl

/-- A link outside SYNCED that takes bytes (R113). -/
def LinkState.Hunting (st : LinkState) : Prop := st = .starting ∨ st = .hunt ∨ st = .lost

/-- A link in this state goes on holding these bytes: in SYNCED any, and while it scans what the scan keeps. -/
def LinkState.Holds (st : LinkState) (held : List Byte) : Prop := st = .synced ∨ st.Hunting ∧ scanSync held = held

theorem receiveByte_synced {x : Axle} {s : State} (h : (s.link.get x).state = .synced) (b : Byte) (g : Gaps) :
    receiveByte x s b g = syncedByte x b s g := by
  simp [receiveByte, h]

theorem receiveByte_hunting {x : Axle} {s : State} (h : (s.link.get x).state.Hunting) (b : Byte) (g : Gaps) :
    receiveByte x s b g = huntingByte x b s g := by
  rcases h with h | h | h <;> simp [receiveByte, h]

/-- A byte before the 18th joins those held. -/
theorem receiveByte_joins {x : Axle} {s : State} {b : Byte} {held : List Byte}
    (joined : (s.link.get x).partialBytes ++ [b] = held) (short : held.length < 18)
    (holds : (s.link.get x).state.Holds held) (g : Gaps) : receiveByte x s b g = setPartial x held s := by
  rcases holds with synced | ⟨hunting, scanned⟩
  · simp only [receiveByte_synced synced, syncedByte, joined, if_pos short]
  · simp only [receiveByte_hunting hunting, huntingByte, joined, scanned, if_pos short]

/-- The first bytes of a frame are held. -/
theorem foldl_receiveByte_holds {x : Axle} {s : State} {bytes : List Byte} (fresh : (s.link.get x).partialBytes = [])
    (holds : ∀ n, (s.link.get x).state.Holds (bytes.take n)) (g : Gaps) {n : Nat} (pos : 0 < n) (short : n < 18)
    (within : n ≤ bytes.length) :
    (bytes.take n).foldl (fun s b => receiveByte x s b g) s = setPartial x (bytes.take n) s := by
  induction n with
  | zero => contradiction
  | succ n ih =>
    have next : bytes.take (n + 1) = bytes.take n ++ [bytes[n]] := (List.take_append_getElem within).symm
    have length : (bytes.take (n + 1)).length < 18 := by rw [List.length_take]; omega
    have last := holds (n + 1)
    rw [next] at length last ⊢
    rw [List.foldl_append, List.foldl_cons, List.foldl_nil]
    by_cases first : n = 0
    · subst first
      exact receiveByte_joins (by rw [fresh]; rfl) length last g
    · rw [ih (by omega) (by omega) (by omega),
        receiveByte_joins (by rw [setPartial_link]) length (by rw [setPartial_link]; exact last), setPartial_setPartial]

/-- The bytes of a frame as they arrive: seventeen are held, and the last one has the frame judged. -/
theorem receiveBytes_eighteen {x : Axle} {s : State} {bytes : List Byte} (clock : s.tb.refclk = true)
    (fresh : (s.link.get x).partialBytes = []) (len : bytes.length = 18)
    (holds : ∀ n, (s.link.get x).state.Holds (bytes.take n)) (g : Gaps) :
    ∃ b, bytes.take 17 ++ [b] = bytes ∧ receiveBytes x bytes s g = receiveByte x (setPartial x (bytes.take 17) s) b g := by
  have split : bytes.take 17 ++ [bytes[17]] = bytes := by
    rw [List.take_append_getElem (by omega), List.take_of_length_le (by omega)]
  refine ⟨bytes[17], split, ?_⟩
  rw [receiveBytes, if_pos clock]
  conv => lhs; rw [← split]
  rw [List.foldl_append, foldl_receiveByte_holds fresh holds g (by decide) (by decide) (by omega)]
  rfl

section
variable {x : Axle} {s : State} {bytes : List Byte} (clock : s.tb.refclk = true)
  (fresh : (s.link.get x).partialBytes = []) (len : bytes.length = 18)
include clock fresh len

/-- Eighteen bytes in SYNCED are judged as a frame (R112). -/
theorem receiveBytes_synced (synced : (s.link.get x).state = .synced) (g : Gaps) :
    receiveBytes x bytes s g =
      if beginsWithSync bytes && statusCrcGood bytes then acceptFrame x (readStatusFrame bytes) (setPartial x [] s) g
      else badFrame x (setPartial x [] s) := by
  obtain ⟨b, split, e⟩ := receiveBytes_eighteen clock fresh len (fun _ => .inl synced) g
  rw [e, receiveByte_synced (by rw [setPartial_link]; exact synced), syncedByte]
  simp only [setPartial_link, setPartial_setPartial, split, len, Nat.lt_irrefl, if_false]

/-- Eighteen bytes that begin with the sync word are judged as a candidate outside SYNCED (R113). -/
theorem receiveBytes_hunting (hunting : (s.link.get x).state.Hunting) (sync : beginsWithSync bytes = true) (g : Gaps) :
    receiveBytes x bytes s g =
      if statusCrcGood bytes then acceptFrame x (readStatusFrame bytes) (setPartial x [] s) g
      else badFrame x (setPartial x (scanSync bytes.tail) s) := by
  obtain ⟨b, split, e⟩ := receiveBytes_eighteen clock fresh len (fun n => .inr ⟨hunting, scanSync_take sync n⟩) g
  have scanned : scanSync bytes = bytes := by
    have := scanSync_take sync 18
    rwa [List.take_of_length_le (by omega)] at this
  rw [e, receiveByte_hunting (by rw [setPartial_link]; exact hunting), huntingByte]
  simp only [setPartial_link, setPartial_setPartial, split, scanned, len, Nat.lt_irrefl, if_false]

end

/-! ### A bad frame in SYNCED (R112, R119, R134) -/

/-- The third bad frame in a row takes the link to HUNT, which posts no cap and makes no claim but the notice to OC. -/
theorem moveLink_synced_hunt {x : Axle} {s : State} (h : (s.link.get x).state = .synced) :
    moveLink x .hunt s = linkLeftSynced (s.setLink x { s.link.get x with state := .hunt }) := by
  simp [moveLink, h, LinkState.isBlocked, LinkState.isOut]

/-- ARMING ends with outcome LINK where a link has left SYNCED (R134). -/
theorem linkLeftSynced_eq (s : State) :
    linkLeftSynced s = s.setOc (if s.oc.state = .arming then
      { s.oc with state := .disarmed, armWindow := none, lastOutcome := .link } else s.oc) := by
  unfold linkLeftSynced
  split <;> rfl

/-- A link's counters after a bad frame or candidate (R126). -/
def LinkCounters.withBad (c : LinkCounters) : LinkCounters := { c with badFrames := min (c.badFrames + 1) 65535 }

theorem setLink_setLink (s : State) (x : Axle) (v w : AxleLink) : (s.setLink x v).setLink x w = s.setLink x w := by
  cases x <;> rfl

section
variable {x : Axle} {s : State} {v : AxleLink} (synced : v.state = .synced)
include synced

/-- A bad frame in SYNCED that is not the third in a row leaves the link there. -/
theorem badFrame_synced_stays (few : v.badRun + 1 < 3) :
    badFrame x (s.setLink x v) = s.setLink x { v with counters := v.counters.withBad, badRun := v.badRun + 1 } := by
  simp only [badFrame, State.setLink_link, ByAxle.get_set_same, setLink_setLink, synced, if_neg (Nat.not_le.2 few)]
  rfl

/-- The third bad frame in a row takes the link to HUNT. -/
theorem badFrame_synced_hunts (third : 3 ≤ v.badRun + 1) :
    badFrame x (s.setLink x v)
      = linkLeftSynced (s.setLink x { v with counters := v.counters.withBad, badRun := 0, state := .hunt }) := by
  simp only [badFrame, State.setLink_link, ByAxle.get_set_same, setLink_setLink, synced, if_pos third]
  rw [moveLink_synced_hunt (by rw [State.setLink_link, ByAxle.get_set_same]), State.setLink_link, ByAxle.get_set_same,
    setLink_setLink]
  rfl

end

/-- A link with these bytes held: what the bytes of a bad frame leave before it is judged. -/
def AxleLink.holding (l : AxleLink) (held : List Byte) (low : Nat) : AxleLink :=
  { l with partialBytes := held, rxGapUs := 0, lowLineUs := low }

/-- A bad frame in SYNCED, however it shows, is judged with no byte of it held. -/
theorem exec_badSynced {s : State} {x : Axle} {c : Instr} (clocked : Clocked s) (synced : (s.link.get x).state = .synced)
    (h : (∃ bytes, c = .statusFrameBad x bytes false ∧ (s.link.get x).partialBytes = [] ∧ bytes.length = 18
          ∧ (beginsWithSync bytes = false ∨ statusCrcGood bytes = false))
        ∨ c = .statusFrameBad x [] true
        ∨ (c = .receiveGapCut x ∧ (s.link.get x).partialBytes ≠ [])) :
    ∃ low, exec c s = .next (badFrame x (s.setLink x ((s.link.get x).holding [] low))) := by
  obtain ⟨operating, clock⟩ := clocked
  have acts (effect : State → State) : inOperation effect s = .next (effect s) := by simp [inOperation, operating]
  rcases h with ⟨bytes, rfl, fresh, len, bad⟩ | rfl | ⟨rfl, held⟩
  · refine ⟨0, (acts (receiveBad x bytes false)).trans (congrArg _ ?_)⟩
    have judged : (beginsWithSync bytes && statusCrcGood bytes) = false := by
      rcases bad with bad | bad <;> simp [bad]
    show receiveBytes x bytes s = _
    rw [receiveBytes_synced clock fresh len synced, judged]
    rfl
  · refine ⟨(s.link.get x).lowLineUs, (acts (receiveBad x [] true)).trans (congrArg _ ?_)⟩
    have e : receiveBytes x [] s = s := by simp [receiveBytes]
    simp only [receiveBad, e, clock, Bool.and_self, if_true, framingErrorAt, synced, AxleLink.holding]
  · refine ⟨(s.link.get x).lowLineUs, (acts fun s => if s.tb.refclk then gapCutAt x s else s).trans (congrArg _ ?_)⟩
    simp only [clock, if_true, gapCutAt, synced, if_neg held, AxleLink.holding]

/-! ### A bad candidate outside SYNCED (R113) -/

/-- A bad candidate sets the recovery count of STARTING and LOST to 0. -/
theorem badFrame_hunting {x : Axle} {s : State} {v : AxleLink} (hunting : v.state.Hunting) :
    badFrame x (s.setLink x v) = s.setLink x { v with
      counters := v.counters.withBad, recovery := if v.state = .hunt then v.recovery else 0 } := by
  rcases hunting with h | h | h <;>
    (simp only [badFrame, State.setLink_link, ByAxle.get_set_same, setLink_setLink, h]; rfl)

/-- No candidate begins where no 0x6B stands. -/
theorem candidates_eq_zero {bytes : List Byte} (h : 0x6B#8 ∉ bytes) : candidates bytes = 0 := by
  induction bytes using candidates.induct with
  | case1 => rfl
  | case2 a => rfl
  | case3 a b rest ih =>
    obtain ⟨head, tail⟩ : ¬ 0x6B#8 = a ∧ 0x6B#8 ∉ b :: rest := by rwa [List.mem_cons, not_or] at h
    simp [candidates, ih tail, Ne.symm head]

/-- A cut of a candidate that holds no other 0x6B has that one judged bad (log 16). -/
theorem cutHunting_candidate {x : Axle} {s : State} {rest : List Byte}
    (held : (s.link.get x).partialBytes = 0x6B#8 :: 0x94#8 :: rest) (alone : 0x6B#8 ∉ rest) :
    cutHunting x s = badFrame x (s.setLink x { s.link.get x with
      partialBytes := scanTail (0x6B#8 :: 0x94#8 :: rest), rxGapUs := 0 }) := by
  have scanned : scanSync (0x6B#8 :: 0x94#8 :: rest) = 0x6B#8 :: 0x94#8 :: rest := rfl
  have one : candidates (0x6B#8 :: 0x94#8 :: rest) = 1 := by
    have none : candidates (0x94#8 :: rest) = 0 := candidates_eq_zero (List.not_mem_cons_of_ne_of_not_mem (by decide) alone)
    rw [candidates, none]
    rfl
  simp only [cutHunting, held, scanned, one, if_pos Nat.one_pos]
  rfl

/-- A cut outside a candidate changes nothing (R113, log 16). -/
theorem cutHunting_noCandidate {x : Axle} {s : State}
    (h : (s.link.get x).partialBytes = [] ∨ (s.link.get x).partialBytes = [0x6B#8]) : cutHunting x s = s := by
  rcases h with h | h <;> simp [cutHunting, h, scanSync, candidates]

/-- A bad candidate outside SYNCED, by its bytes or by a cut. -/
theorem exec_badCandidate {s : State} {x : Axle} {c : Instr} (clocked : Clocked s) (hunting : (s.link.get x).state.Hunting)
    (h : (∃ bytes, c = .statusFrameBad x bytes false ∧ (s.link.get x).partialBytes = [] ∧ bytes.length = 18
          ∧ beginsWithSync bytes = true ∧ statusCrcGood bytes = false)
        ∨ (∃ rest, (c = .receiveGapCut x ∨ c = .statusFrameBad x [] true)
            ∧ (s.link.get x).partialBytes = 0x6B#8 :: 0x94#8 :: rest ∧ 0x6B#8 ∉ rest)) :
    ∃ held low, exec c s = .next (badFrame x (s.setLink x ((s.link.get x).holding held low))) := by
  obtain ⟨operating, clock⟩ := clocked
  have acts (effect : State → State) : inOperation effect s = .next (effect s) := by simp [inOperation, operating]
  rcases h with ⟨bytes, rfl, fresh, len, sync, bad⟩ | ⟨rest, cut, held, alone⟩
  · refine ⟨scanSync bytes.tail, 0, (acts (receiveBad x bytes false)).trans (congrArg _ ?_)⟩
    show receiveBytes x bytes s = _
    rw [receiveBytes_hunting clock fresh len hunting sync, bad]
    rfl
  · refine ⟨scanTail (0x6B#8 :: 0x94#8 :: rest), (s.link.get x).lowLineUs, ?_⟩
    have judged : exec c s = .next (cutHunting x s) := by
      rcases cut with rfl | rfl
      · refine (acts fun s => if s.tb.refclk then gapCutAt x s else s).trans (congrArg _ ?_)
        rcases hunting with h | h | h <;> simp [clock, gapCutAt, h]
      · refine (acts (receiveBad x [] true)).trans (congrArg _ ?_)
        rcases hunting with h | h | h <;> simp [receiveBad, receiveBytes, clock, framingErrorAt, h]
    rw [judged, cutHunting_candidate held alone]
    rfl

/-- Settles O48: a bad frame in SYNCED is `exec_badSynced`, a bad candidate elsewhere `exec_badCandidate`, and what each leaves is
said by the equations of `badFrame`. -/
theorem badStatusFrames : Obligations.BadStatusFrames := by
  refine ⟨?_, ?_, fun s x h => ?_⟩
  · rintro s x l c clocked rfl synced h
    obtain ⟨low, e⟩ := exec_badSynced clocked synced h
    refine ⟨_, e, ?_⟩
    by_cases third : 3 ≤ (s.link.get x).badRun + 1
    · rw [badFrame_synced_hunts (v := (s.link.get x).holding [] low) synced third, linkLeftSynced_eq,
        State.setOc_link, State.setLink_link, ByAxle.get_set_same]
      refine ⟨rfl, rfl, fun few => absurd third (by omega), fun _ => ⟨rfl, rfl, rfl⟩, rfl, rfl, ?_⟩
      refine .seq (ps := [.rx x, .sync x, .linkState x, .counters x]) ?_ (setOc_only _ _) (by simp) (by simp)
      apply setLink_only <;> simp [AxleLink.holding]
    · rw [badFrame_synced_stays (v := (s.link.get x).holding [] low) synced (Nat.not_le.1 third),
        State.setLink_link, ByAxle.get_set_same]
      refine ⟨rfl, rfl, fun _ => ⟨synced, rfl, rfl⟩, fun many => absurd many third, rfl, rfl, ?_⟩
      apply setLink_only <;> simp [AxleLink.holding]
  · rintro s x l c clocked rfl hunting h
    obtain ⟨held, low, e⟩ := exec_badCandidate clocked hunting h
    refine ⟨_, e, ?_⟩
    rw [badFrame_hunting (v := (s.link.get x).holding held low) hunting, State.setLink_link, ByAxle.get_set_same]
    refine ⟨rfl, rfl, rfl, rfl, rfl, ?_⟩
    apply setLink_only <;> simp [AxleLink.holding]
  · have waits : cutHunting x s = s := cutHunting_noCandidate (h.imp_right And.left)
    have stays : gapCutAt x s = s := by
      cases state : (s.link.get x).state with
      | off | broken => simp [gapCutAt, state]
      | synced => simp [gapCutAt, state, h.resolve_right fun lone => lone.2 state]
      | starting | hunt | lost => simp [gapCutAt, state, waits]
    show inOperation (fun s => if s.tb.refclk then gapCutAt x s else s) s = _
    simp [inOperation, stays]

end Sys2Proof.Machine
end

section
/-! An accepted status frame: its bytes, its notice and its service echo (O47). -/

namespace Sys2Proof.Machine

/-! ### The bytes of a status frame (R173, R174) -/

theorem StatusFrame.length_bytes (f : StatusFrame) : f.bytes.length = 18 := rfl

theorem StatusFrame.beginsWithSync_bytes (f : StatusFrame) : beginsWithSync f.bytes = true := rfl

theorem StatusFrame.statusCrcGood_bytes (f : StatusFrame) : statusCrcGood f.bytes = true := by
  have covered : (f.bytes.drop 2).take 14 = f.covered := rfl
  have crc : u16At f.bytes 16 = (crc16 f.covered).toNat % 2 ^ 16 := u16At_of_drop (rest := []) rfl
  rw [Nat.mod_eq_of_lt (BitVec.isLt _)] at crc
  rw [statusCrcGood, covered, crc, decide_eq_true_eq]

/-- Each field of a status frame fits the bytes it has in the frame (R173). -/
structure StatusFrame.InRange (f : StatusFrame) : Prop where
  torque : -32768 ≤ f.torque ∧ f.torque ≤ 32767
  speed : -32768 ≤ f.speed ∧ f.speed ≤ 32767
  availDrive : f.availDrive < 65536
  availRegen : f.availRegen < 65536
  noticeArg : f.noticeArg < 65536

/-- A frame in range reads back as it was written. -/
theorem readStatusFrame_bytes {f : StatusFrame} (h : f.InRange) : readStatusFrame f.bytes = f := by
  have torque : i16At f.bytes 4 = f.torque := i16At_of_drop rfl h.torque.1 h.torque.2
  have speed : i16At f.bytes 10 = f.speed := i16At_of_drop rfl h.speed.1 h.speed.2
  have availDrive : u16At f.bytes 6 = f.availDrive := (u16At_of_drop rfl).trans (Nat.mod_eq_of_lt h.availDrive)
  have availRegen : u16At f.bytes 8 = f.availRegen := (u16At_of_drop rfl).trans (Nat.mod_eq_of_lt h.availRegen)
  have noticeArg : u16At f.bytes 14 = f.noticeArg := (u16At_of_drop rfl).trans (Nat.mod_eq_of_lt h.noticeArg)
  rw [readStatusFrame, torque, speed, availDrive, availRegen, noticeArg]
  rfl

/-- A whole frame on a link that takes bytes and holds none is accepted (R112 to R114). -/
theorem exec_statusFrameAccepted {s : State} {x : Axle} {f : StatusFrame} (clocked : Clocked s)
    (fresh : (s.link.get x).partialBytes = []) (takes : (s.link.get x).state = .synced ∨ (s.link.get x).state.Hunting)
    (range : f.InRange) (inGaps : List (ClaimGap × Meanwhile)) :
    exec (.statusFrameAccepted x f.bytes inGaps) s = .next (acceptFrame x f (setPartial x [] s) (gaps inGaps)) := by
  obtain ⟨operating, clock⟩ := clocked
  have accepts : receiveBytes x f.bytes s (gaps inGaps) = acceptFrame x f (setPartial x [] s) (gaps inGaps) := by
    rcases takes with synced | hunting
    · rw [receiveBytes_synced clock fresh f.length_bytes synced, f.beginsWithSync_bytes, f.statusCrcGood_bytes,
        readStatusFrame_bytes range]
      rfl
    · rw [receiveBytes_hunting clock fresh f.length_bytes hunting f.beginsWithSync_bytes, f.statusCrcGood_bytes,
        readStatusFrame_bytes range]
      rfl
  show inOperation (fun s => receiveBytes x f.bytes s (gaps inGaps)) s = _
  simp [inOperation, operating, accepts]

/-! ### The notice and the echo (R121, R122, R124) -/

section
variable {x : Axle} {code : Byte} {s : State}

/-- The acknowledged code is cleared where the frame's code differs from it (R122). -/
theorem takeNotice_ackCode (arg : Nat) :
    ((takeNotice x code arg s).link.get x).ackCode
      = if (s.link.get x).ackCode = some code then (s.link.get x).ackCode else none := by
  unfold takeNotice
  dsimp only
  split
  · rw [State.setLink_link, ByAxle.get_set_same]
  · split
    · rw [State.setLink_link, ByAxle.get_set_same]
    · split
      · rw [State.setLink_link, ByAxle.get_set_same]
      · rw [signalReporting_link, State.setLink_link, ByAxle.get_set_same]

theorem takeNotice_service (arg : Nat) : ((takeNotice x code arg s).link.get x).service = (s.link.get x).service :=
  takeNotice_only x code arg s (.service x) (by simp)

/-- A notice that is none, that the acknowledged code answers, that is held, or that is lost already, is ignored. -/
theorem takeNotice_ignores (arg : Nat)
    (h : code = 0 ∨ (s.link.get x).ackCode = some code ∨ (∃ a, (s.link.get x).notice = some (code, a))
      ∨ ((s.link.get x).notice.isSome = true ∧ (s.link.get x).lostNotice = some code)) :
    takeNotice x code arg s = s.setLink x { s.link.get x with
      ackCode := if (s.link.get x).ackCode = some code then (s.link.get x).ackCode else none } := by
  by_cases atOnce : code = 0 ∨ (s.link.get x).ackCode = some code
  · simp only [takeNotice, if_pos atOnce]
  · have waits := (or_assoc.2 h).resolve_left atOnce
    cases held : (s.link.get x).notice with
    | none => simp [held] at waits
    | some n =>
      have heldOrLost : n.1 = code ∨ (s.link.get x).lostNotice = some code :=
        waits.imp (fun ⟨_, same⟩ => congrArg Prod.fst (Option.some.inj (held.symm.trans same))) And.right
      simp only [takeNotice, if_neg atOnce, held, if_pos heldOrLost]

variable (given : code ≠ 0) (unanswered : (s.link.get x).ackCode ≠ some code)
include given unanswered

/-- An empty notice slot stores the notice. -/
theorem takeNotice_stores (arg : Nat) (empty : (s.link.get x).notice = none) :
    takeNotice x code arg s
      = s.setLink x { s.link.get x with notice := some (code, arg), ackCode := none } := by
  simp only [takeNotice, if_neg (not_or.2 ⟨given, unanswered⟩), empty, if_neg unanswered]

/-- A notice that finds another one held is lost, which counts and is signalled. -/
theorem takeNotice_loses (arg : Nat) {c : Byte} {a : Nat} (held : (s.link.get x).notice = some (c, a)) (other : c ≠ code)
    (fresh : (s.link.get x).lostNotice ≠ some code) :
    takeNotice x code arg s = signalReporting .noticeLost .event (s.setLink x { s.link.get x with
      lostNotice := some code
      ackCode := none
      counters := { (s.link.get x).counters with noticesLost := satInc 65535 (s.link.get x).counters.noticesLost } }) := by
  simp only [takeNotice, if_neg (not_or.2 ⟨given, unanswered⟩), held, if_neg (not_or.2 ⟨other, fresh⟩), if_neg unanswered]

end

theorem takeEcho_service (x : Axle) (echo : Byte) (s : State) :
    ((takeEcho x echo s).link.get x).service
      = if (s.link.get x).service.state = .sent ∧ (s.link.get x).service.code = echo then
          { (s.link.get x).service with state := .done } else (s.link.get x).service := by
  unfold takeEcho
  dsimp only
  split
  · rw [State.setLink_link, ByAxle.get_set_same]
  · rfl

/-! ### What the monitors' takes do to the fault records -/

theorem smPost_onlyFaults (x : Axle) (d : Direction) (m : SlipMonitor) (cap : Nat) (s : State) :
    OnlyFaults [] s (smPost x d m cap s) := fun c _ => faultRecord_post (by decide) x d cap c _

theorem smGrip_onlyFaults (x : Axle) (d : Direction) (b : Band) (torque : Int) (s : State) :
    OnlyFaults [slipFault x] s (smGrip x d b torque s) := by
  cases b with
  | hold | release => exact fun _ _ => rfl
  | excess =>
    simp only [smGrip]
    split
    · exact ((smPost_onlyFaults _ _ _ _ _).mono (by simp)).trans (onlyFaults_signalReporting _ _ _)
    · exact fun _ _ => rfl

theorem smSlip_onlyFaults (x : Axle) (d : Direction) (b : Band) (s : State) : OnlyFaults [] s (smSlip x d b s) := by
  cases b with
  | excess => exact smPost_onlyFaults _ _ _ _ _
  | hold | release => exact fun _ _ => rfl

theorem smRecover_onlyFaults (x : Axle) (d : Direction) (b : Band) (s : State) :
    OnlyFaults [slipFault x] s (smRecover x d b s) := by
  cases b with
  | excess => exact (smPost_onlyFaults _ _ _ _ _).mono (by simp)
  | hold => exact .refl _ _
  | release =>
    simp only [smRecover]
    split
    · exact smRelease_onlyFaults _ _ _
    · exact (smPost_onlyFaults _ _ _ _ _).mono (by simp)

/-- A frame that a Slip Monitor takes reaches no fault record but the axle's slip fault (R89 to R92). -/
theorem smFrame_onlyFaults (x : Axle) (f : StatusFrame) (st : LinkState) (s : State) :
    OnlyFaults [slipFault x] s (smFrame x f st s) := by
  unfold smFrame
  dsimp only
  split
  · split
    · exact fun _ _ => rfl
    · exact smGrip_onlyFaults _ _ _ _ _
    · exact (smSlip_onlyFaults _ _ _ _).mono (by simp)
    · exact smRecover_onlyFaults _ _ _ _
  · exact .refl _ _

theorem postInternal_track_onlyFaults (x : Axle) (d : Direction) (n : Nat) (s : State) :
    OnlyFaults [trackFault x] s (postInternal .track x d n s) := by
  unfold postInternal
  dsimp only
  split
  · exact fun c h => onlyFaults_signalReporting _ _ _ c h
  · exact fun _ _ => rfl

theorem postTrack_onlyFaults (x : Axle) (s : State) : OnlyFaults [trackFault x] s (postTrack x s) :=
  (postInternal_track_onlyFaults _ _ _ _).trans (postInternal_track_onlyFaults _ _ _ _)

theorem faultRecord_acceptState_noticeLost (x : Axle) (s : State) :
    faultRecord .noticeLost (acceptState x s) = faultRecord .noticeLost s := by
  have moved (t : State) : faultRecord .noticeLost (moveLink x .synced t) = faultRecord .noticeLost t :=
    faultRecord_moveLink_other (by decide) (by decide) x _ t (by cases x <;> decide) (by cases x <;> decide) (by decide)
  unfold acceptState
  dsimp only
  split
  · exact moved _
  · split
    · exact moved _
    · rfl
  · split
    · exact moved _
    · rfl
  all_goals rfl

/-! ### What stands of a link's notice and service slots -/

/-- What a frame's notice and service echo can change has not changed: the link's notice and outbound service slots, its count of
lost notices, and the record of NOTICE_LOST. -/
structure InboxStands (x : Axle) (s t : State) : Prop where
  notice : (t.link.get x).notice = (s.link.get x).notice
  lostNotice : (t.link.get x).lostNotice = (s.link.get x).lostNotice
  ackCode : (t.link.get x).ackCode = (s.link.get x).ackCode
  service : (t.link.get x).service = (s.link.get x).service
  noticesLost : (t.link.get x).counters.noticesLost = (s.link.get x).counters.noticesLost
  record : faultRecord .noticeLost t = faultRecord .noticeLost s

namespace InboxStands

variable {x : Axle} {s t u : State}

theorem refl (x : Axle) (s : State) : InboxStands x s s := ⟨rfl, rfl, rfl, rfl, rfl, rfl⟩

theorem trans (h : InboxStands x s t) (k : InboxStands x t u) : InboxStands x s u :=
  ⟨k.notice.trans h.notice, k.lostNotice.trans h.lostNotice, k.ackCode.trans h.ackCode, k.service.trans h.service,
    k.noticesLost.trans h.noticesLost, k.record.trans h.record⟩

theorem of_only {ps : List Part} (h : OnlyChanges ps s t) (record : faultRecord .noticeLost t = faultRecord .noticeLost s)
    (notices : .notices x ∉ ps := by simp) (service : .service x ∉ ps := by simp) (counters : .counters x ∉ ps := by simp) :
    InboxStands x s t := by
  obtain ⟨notice, lostNotice, ackCode⟩ := h (.notices x) notices
  have counted : (t.link.get x).counters = (s.link.get x).counters := h (.counters x) counters
  exact ⟨notice, lostNotice, ackCode, h (.service x) service, congrArg _ counted, record⟩

/-- An update of the link that leaves its slots and its count of lost notices. -/
theorem of_setLink {v : AxleLink} (notice : v.notice = (s.link.get x).notice)
    (lostNotice : v.lostNotice = (s.link.get x).lostNotice) (ackCode : v.ackCode = (s.link.get x).ackCode)
    (service : v.service = (s.link.get x).service)
    (noticesLost : v.counters.noticesLost = (s.link.get x).counters.noticesLost) : InboxStands x s (s.setLink x v) := by
  constructor
  case record => rfl
  all_goals rwa [State.setLink_link, ByAxle.get_set_same]

end InboxStands

section
variable (x : Axle) (f : StatusFrame) (s : State)

theorem setPartial_inbox (held : List Byte) : InboxStands x s (setPartial x held s) := .of_setLink rfl rfl rfl rfl rfl

theorem acceptRecord_inbox : InboxStands x s (acceptRecord x f s) := .of_setLink rfl rfl rfl rfl rfl

theorem countStaleEcho_inbox : InboxStands x s (countStaleEcho x s) := .of_setLink rfl rfl rfl rfl rfl

theorem postInverter_inbox : InboxStands x s (postInverter x f s) :=
  .of_only (postInverter_only x f s)
    ((faultRecord_post (by decide) x .regen _ _ _).trans (faultRecord_post (by decide) x .drive _ _ s))

theorem acceptState_inbox : InboxStands x s (acceptState x s) :=
  .of_only (acceptState_only x s) (faultRecord_acceptState_noticeLost x s) (by simp [tripParts]) (by simp [tripParts])
    (by simp [tripParts])

theorem smFrame_inbox (st : LinkState) : InboxStands x s (smFrame x f st s) :=
  .of_only (smFrame_only x f st s) (smFrame_onlyFaults x f st s .noticeLost (by cases x <;> decide)) (by simp [smParts])
    (by simp [smParts]) (by simp [smParts])

theorem tmJudge_inbox (actual commanded : Int) : InboxStands x s (tmJudge x actual commanded s) := by
  have counts (v : TrackingMonitor) : InboxStands x s (s.setTm x v) := .of_only (setTm_only s x v) rfl
  have posts (t : State) : InboxStands x t (postTrack x t) :=
    .of_only (postTrack_only x t) (postTrack_onlyFaults x t .noticeLost (by cases x <;> decide))
  unfold tmJudge
  dsimp only
  split
  · split
    · exact (counts _).trans (posts _)
    · exact counts _
  · exact counts _

theorem tmFrame_inbox : InboxStands x s (tmFrame x f s) := by
  unfold tmFrame
  split
  · exact countStaleEcho_inbox x s
  · split
    · exact tmJudge_inbox x s _ _
    · exact .refl x s

/-- Of the steps of an accepted frame only its notice and its echo reach the link's slots (R114). -/
theorem acceptFrame_inbox : ∃ u, InboxStands x s u
    ∧ InboxStands x (takeEcho x f.serviceEcho (takeNotice x f.noticeCode f.noticeArg u)) (acceptFrame x f s) :=
  ⟨_, (acceptRecord_inbox x f s).trans (postInverter_inbox x f _),
    ((acceptState_inbox x _).trans (smFrame_inbox x f _ _)).trans (tmFrame_inbox x f _)⟩

end

/-- What the echo leaves of what the notice has left: everything but the service slot. -/
theorem takeEcho_notices (x : Axle) (echo : Byte) (s : State) :
    ((takeEcho x echo s).link.get x).notice = (s.link.get x).notice
      ∧ ((takeEcho x echo s).link.get x).lostNotice = (s.link.get x).lostNotice
      ∧ ((takeEcho x echo s).link.get x).ackCode = (s.link.get x).ackCode
      ∧ ((takeEcho x echo s).link.get x).counters = (s.link.get x).counters
      ∧ faultRecord .noticeLost (takeEcho x echo s) = faultRecord .noticeLost s := by
  have only := takeEcho_only x echo s
  obtain ⟨notice, lostNotice, ackCode⟩ := only (.notices x) (by simp)
  exact ⟨notice, lostNotice, ackCode, only (.counters x) (by simp), only.faultRecord_eq (by simp) _⟩

/-- Settles O47: the frame is accepted (`exec_statusFrameAccepted`), its other steps leave the slots (`acceptFrame_inbox`), and the
notice and the echo are said by the equations of `takeNotice` and `takeEcho`. -/
theorem acceptedNoticeAndEcho : Obligations.AcceptedNoticeAndEcho := by
  rintro s x f l clocked rfl fresh state torqueLow torqueHigh speedLow speedHigh drive regen arg
  have range : f.InRange := ⟨⟨torqueLow, torqueHigh⟩, ⟨speedLow, speedHigh⟩, drive, regen, arg⟩
  have takes : (s.link.get x).state = .synced ∨ (s.link.get x).state.Hunting := by
    rcases state with synced | hunt | starting | lost
    · exact .inl synced
    · exact .inr (.inr (.inl hunt))
    · exact .inr (.inl starting)
    · exact .inr (.inr (.inr lost))
  obtain ⟨u, before, after⟩ := acceptFrame_inbox x f (setPartial x [] s)
  replace before := (setPartial_inbox x s []).trans before
  obtain ⟨notice, lostNotice, ackCode, counters, record⟩ :=
    takeEcho_notices x f.serviceEcho (takeNotice x f.noticeCode f.noticeArg u)
  refine ⟨_, _, exec_statusFrameAccepted clocked fresh takes range [], rfl, ?_⟩
  simp only [gaps_nil, EventTaken, after.notice, after.lostNotice, after.ackCode, after.service, after.noticesLost,
    after.record, ← before.notice, ← before.lostNotice, ← before.ackCode, ← before.service, ← before.noticesLost,
    ← before.record, notice, lostNotice, ackCode, counters, record, takeEcho_service, takeNotice_service,
    takeNotice_ackCode]
  refine ⟨fun answered => if_pos answered, fun unanswered => if_neg unanswered, fun ignored => ?_,
    fun given unanswered empty => ?_, fun c a given unanswered held other unlost => ?_,
    fun sent echoed => if_pos ⟨sent, echoed⟩, fun other => if_neg fun both => other.elim (· both.1) (· both.2)⟩
  · rw [takeNotice_ignores _ ignored, State.setLink_link, ByAxle.get_set_same]
    exact ⟨rfl, rfl, rfl, rfl⟩
  · rw [takeNotice_stores given unanswered _ empty, State.setLink_link, ByAxle.get_set_same]
    exact ⟨rfl, rfl, rfl, rfl⟩
  · rw [takeNotice_loses given unanswered _ held other unlost, signalReporting_link, State.setLink_link,
      ByAxle.get_set_same]
    exact ⟨rfl, rfl, rfl, eventTaken_signalReporting _ _⟩

end Sys2Proof.Machine
end

section
/-! SUPPORT. The moves of Output Control: the enable lines and the arm window after each (R128, R133), the DISARM, and ARM's
conditions. -/

namespace Sys2Proof.Machine

/-! ### Output Control's own registers -/

/-- The enable lines are asserted exactly in ARMED, and the arm window runs only in ARMING (R128, R133). -/
structure OutputControl.Consistent (o : OutputControl) : Prop where
  enF : o.enF = decide (o.state = .armed)
  enR : o.enR = decide (o.state = .armed)
  window : o.state ≠ .arming → o.armWindow = none

theorem consistent_iff (s : State) : s.oc.Consistent ↔ EnablesFollowArmed s ∧ WindowOnlyInArming s :=
  ⟨fun i => ⟨⟨i.enF, i.enR⟩, i.window⟩, fun ⟨⟨enF, enR⟩, window⟩ => ⟨enF, enR, window⟩⟩

/-- Output Control with its lines and window as a state other than ARMED and ARMING has them. -/
theorem OutputControl.Consistent.of_idle {o : OutputControl} (state : o.state = .disarmed ∨ o.state = .tripped)
    (enF : o.enF = false) (enR : o.enR = false) (window : o.armWindow = none) : o.Consistent := by
  rcases state with state | state <;> exact ⟨by rw [enF, state]; rfl, by rw [enR, state]; rfl, fun _ => window⟩

section
variable {o : OutputControl} (i : o.Consistent)
include i

theorem OutputControl.Consistent.lines_low (h : o.state ≠ .armed) : o.enF = false ∧ o.enR = false :=
  ⟨by rw [i.enF, decide_eq_false h], by rw [i.enR, decide_eq_false h]⟩

/-- A trip out of each state leaves the lines low and the window stopped (R129, R136). -/
theorem OutputControl.Consistent.tripOc (cause : TripCause) (period : Nat) : (tripOc cause period o).Consistent := by
  unfold Machine.tripOc
  split <;> rename_i state
  · exact i
  · obtain ⟨enF, enR⟩ := i.lines_low (by rw [state]; decide)
    exact .of_idle (.inr rfl) enF enR (i.window (by rw [state]; decide))
  · obtain ⟨enF, enR⟩ := i.lines_low (by rw [state]; decide)
    exact .of_idle (.inr rfl) enF enR rfl
  · exact .of_idle (.inr rfl) rfl rfl (i.window (by rw [state]; decide))

/-- Whatever ends ARMING without a trip leaves DISARMED with the lines low (R133 to R135). -/
theorem OutputControl.Consistent.endArming (h : o.state = .arming) (outcome : ArmOutcome) :
    ({ o with state := .disarmed, armWindow := none, lastOutcome := outcome } : OutputControl).Consistent := by
  obtain ⟨enF, enR⟩ := i.lines_low (by rw [h]; decide)
  exact .of_idle (.inl rfl) enF enR rfl

/-- ARM starts the window with the lines still low (R130). -/
theorem OutputControl.Consistent.startArming (h : o.state = .disarmed) (mark window : Nat) :
    ({ o with state := .arming, armMark := mark, armWindow := some window, lastOutcome := .none }
      : OutputControl).Consistent := by
  obtain ⟨enF, enR⟩ := i.lines_low (by rw [h]; decide)
  exact ⟨enF, enR, fun other => absurd rfl other⟩

/-- The 1 ms timer counts the window down where it runs. -/
theorem OutputControl.Consistent.countDown :
    ({ o with armWindow := countDown o.armWindow } : OutputControl).Consistent :=
  ⟨i.enF, i.enR, fun other => by rw [i.window other]; rfl⟩

end

/-! ### DISARM (R135) -/

section
variable {s : State}

theorem disarmFrom_armed (h : s.oc.state = .armed) : disarmFrom s
    = disarmNotice .rear (disarmNotice .front (notifyLeavingArmed
        (s.setOc { s.oc with state := .disarmed, enF := false, enR := false }))) := by
  simp only [disarmFrom, h]

theorem disarmFrom_arming (h : s.oc.state = .arming) : disarmFrom s
    = disarmNotice .rear (disarmNotice .front
        (s.setOc { s.oc with state := .disarmed, armWindow := none, lastOutcome := .disarm })) := by
  simp only [disarmFrom, h]

theorem disarmFrom_idle (h : s.oc.state = .disarmed ∨ s.oc.state = .tripped) : disarmFrom s = s := by
  rcases h with h | h <;> simp only [disarmFrom, h]

end

/-! ### The conditions of ARM and CLEAR TRIP (R130, R138) -/

theorem mem_forcingCodes (c : FaultCode) : c ∈ forcingCodes ↔ c.forcing = true := by cases c <;> decide

theorem anyTest_iff (s : State) : anyTest s = true ↔ ∃ c, (faultRecord c s).test = true := by
  simp only [anyTest, List.any_eq_true, mem_faultCodes, true_and]

theorem anyForcingLive_iff (s : State) :
    anyForcingLive s = true ↔ ∃ c : FaultCode, c.forcing = true ∧ (faultRecord c s).live = true := by
  simp only [anyForcingLive, List.any_eq_true, mem_forcingCodes]

theorem lowestForcing_eq_none (s : State) :
    lowestForcing s = none ↔ ∀ c : FaultCode, c.forcing = true → (faultRecord c s).present = false := by
  simp only [lowestForcing, List.find?_eq_none, mem_forcingCodes, Bool.not_eq_true]

/-- An ARM that is taken found OC DISARMED and no FORCING condition present (R130). -/
theorem armRefusal_eq_none {s : State} (h : armRefusal s = none) :
    s.oc.state = .disarmed ∧ ∀ c : FaultCode, c.forcing = true → (faultRecord c s).present = false := by
  unfold armRefusal at h
  split at h
  · cases h
  split at h
  · cases h
  rename_i state
  split at h
  · cases h
  split at h
  · cases h
  split at h
  · cases h
  rename_i test
  split at h
  · cases h
  rename_i live
  refine ⟨Decidable.of_not_not state, fun c forcing => Bool.eq_false_iff.2 fun present => ?_⟩
  rcases Bool.or_eq_true _ _ |>.mp present with isLive | isTest
  · exact live ((anyForcingLive_iff s).2 ⟨c, forcing, isLive⟩)
  · exact test ((anyTest_iff s).2 ⟨c, isTest⟩)

end Sys2Proof.Machine
end

section
/-! Every step keeps Output Control consistent (O54): each primitive operation does, and while a forcing notice is under way to
Output Control every condition but its own holds the part in TRIPPED (R131, R136, R143). -/

namespace Sys2Proof.Machine

/-! ### Conditions that become present -/

/-- No condition of a FORCING fault has become present. -/
def NoNewForcing (s t : State) : Prop :=
  ∀ c : FaultCode, c.forcing = true → (faultRecord c t).present = true → (faultRecord c s).present = true

/-- Only faults of class REPORTING have changed. -/
theorem OnlyFaults.noNewForcing {cs : List FaultCode} {s t : State} (h : OnlyFaults cs s t)
    (reporting : ∀ c ∈ cs, c.forcing = false) : NoNewForcing s t := fun c forcing present => by
  rwa [h c fun m => by simp [reporting c m] at forcing] at present

@[simp] theorem slipFault_forcing (x : Axle) : (slipFault x).forcing = false := by cases x <;> rfl
@[simp] theorem trackFault_forcing (x : Axle) : (trackFault x).forcing = false := by cases x <;> rfl
@[simp] theorem linkLostFault_forcing (x : Axle) : (linkLostFault x).forcing = false := by cases x <;> rfl
@[simp] theorem linkBreakFault_forcing (x : Axle) : (linkBreakFault x).forcing = false := by cases x <;> rfl

theorem withdrawInternal_track_onlyFaults (x : Axle) (d : Direction) (s : State) :
    OnlyFaults [trackFault x] s (withdrawInternal .track x d s) := by
  unfold withdrawInternal
  dsimp only
  split
  · exact onlyFaults_signalReporting (trackFault x) (.live false) (setSlot .track x d none s)
  · exact fun _ _ => rfl

theorem evaluateHostLink_onlyFaults (s : State) : OnlyFaults [.hostLink] s (evaluateHostLink s) := by
  unfold evaluateHostLink
  dsimp only
  split
  · exact .refl _ _
  · exact fun c n => onlyFaults_signalReporting .hostLink _ (s.setHp _) c n

theorem stageMonitor_onlyFaults (w : PeriodWork) (s : State) : OnlyFaults [.shortfall] s (stageMonitor w s).2 := by
  by_cases same : decide (w.shortfallCount ≤ if w.shortfallThreshold < w.shortfall.natAbs then satInc 65535 s.se.shortfallRun
      else 0) = s.se.shortfallLive
  · exact ((stageMonitor_only_same rfl same).onlyFaults (by simp)).mono (by simp)
  · rw [stageMonitor_signals rfl same]
    exact fun c n => onlyFaults_signalReporting .shortfall _ (s.setSe _) c n

theorem notifyLeavingArmed_onlyFaults (s : State) : OnlyFaults [.slipF, .slipR] s (notifyLeavingArmed s) := fun c n => by
  simp only [List.mem_cons, List.not_mem_nil, or_false, not_or] at n
  simp [faultRecord_notifyLeavingArmed, n]

/-- DISARM reaches no fault record but the slip faults' (R95, R135). -/
theorem disarmFrom_onlyFaults (s : State) : OnlyFaults [.slipF, .slipR] s (disarmFrom s) := by
  cases state : s.oc.state with
  | armed =>
    rw [disarmFrom_armed state]
    exact fun c n => notifyLeavingArmed_onlyFaults (s.setOc { s.oc with state := .disarmed, enF := false, enR := false }) c n
  | arming => rw [disarmFrom_arming state]; exact fun _ _ => rfl
  | disarmed => rw [disarmFrom_idle (.inl state)]; exact .refl _ _
  | tripped => rw [disarmFrom_idle (.inr state)]; exact .refl _ _

/-- DEMAND_STALE is an event: it makes no condition present (R142, R143). -/
theorem signalStale_noNewForcing (s : State) : NoNewForcing s (signalStale s) := fun c _ present => by
  rw [signalStale_eq, faultRecord_signalReporting] at present
  split at present
  · rename_i same
    subst same
    exact present
  · exact present

theorem mapAll_get (r : FaultRecords) (g : FaultCode → FaultRecord → FaultRecord) (c : FaultCode) :
    (r.mapAll g).get c = g c (r.get c) := by cases c <;> rfl

/-- A change of every record that leaves live and test makes no condition present (R147, R149). -/
theorem mapAll_noNewForcing (s : State) {g : FaultCode → FaultRecord → FaultRecord}
    (leaves : ∀ c r, (g c r).present = r.present) :
    NoNewForcing s (updateAttn (s.setFu { s.fu with records := s.fu.records.mapAll g })) := fun c _ present => by
  have record : faultRecord c (updateAttn (s.setFu { s.fu with records := s.fu.records.mapAll g })) = g c (faultRecord c s) :=
    mapAll_get _ g c
  rwa [record, leaves] at present

/-- A take that gives no forcing notice makes no FORCING condition present (R143). -/
theorem FaultRecord.present_of_take {c : FaultCode} {r : FaultRecord} {ch : FaultChange} (forcing : c.forcing = true)
    (quiet : givesForcingNotice c r ch = false) (present : (r.take ch).present = true) : r.present = true := by
  cases ch with
  | event => exact present
  | live b | test b =>
    simp only [givesForcingNotice, forcing, Bool.true_and] at quiet
    simp only [FaultRecord.take, quiet, Bool.false_eq_true, if_false] at present
    simpa [FaultRecord.occurs, present] using quiet

/-! ### The invariant -/

/-- Output Control is consistent, and in READY a present FORCING condition holds it in TRIPPED, but for the fault whose forcing
notice is under way to it, where one is (R128, R131, R133, R136). -/
structure OutputConsistent (underWay : Option FaultCode) (s : State) : Prop where
  oc : s.oc.Consistent
  tripped : s.hp.part = .ready → ∀ c : FaultCode, c.forcing = true → (faultRecord c s).present = true →
    underWay ≠ some c → s.oc.state = .tripped

theorem outputConsistent_iff (s : State) :
    OutputConsistent none s ↔ EnablesFollowArmed s ∧ WindowOnlyInArming s ∧ ForcingHoldsTripped s := by
  rw [← and_assoc, ← consistent_iff]
  exact ⟨fun i => ⟨i.oc, fun ready ⟨c, forcing, present⟩ => i.tripped ready c forcing present nofun⟩,
    fun ⟨oc, holds⟩ => ⟨oc, fun ready c forcing present _ => holds ready ⟨c, forcing, present⟩⟩⟩

namespace OutputConsistent
variable {underWay : Option FaultCode} {s t : State}

/-- What leaves Output Control and the part state, and makes no FORCING condition present. -/
theorem of_noNew {ps : List Part} (i : OutputConsistent underWay s) (only : OnlyChanges ps s t) (new : NoNewForcing s t)
    (n : Part.oc ∉ ps ∧ Part.part ∉ ps := by simp [smParts]) : OutputConsistent underWay t where
  oc := by rw [only.oc_eq n.1]; exact i.oc
  tripped ready c forcing present other := by
    rw [only.part_eq n.2] at ready
    rw [only.oc_eq n.1]
    exact i.tripped ready c forcing (new c forcing present) other

/-- What changes records of REPORTING faults only. -/
theorem of_only {ps : List Part} {cs : List FaultCode} (i : OutputConsistent underWay s) (only : OnlyChanges ps s t)
    (faults : OnlyFaults cs s t) (reporting : ∀ c ∈ cs, c.forcing = false := by simp +decide)
    (n : Part.oc ∉ ps ∧ Part.part ∉ ps := by simp [smParts]) : OutputConsistent underWay t :=
  i.of_noNew only (faults.noNewForcing reporting) n

/-- What leaves Output Control, the records and the part state. -/
theorem of_plain {ps : List Part} (i : OutputConsistent underWay s) (only : OnlyChanges ps s t)
    (n : (Part.oc ∉ ps ∧ Part.part ∉ ps) ∧ Part.fu ∉ ps := by simp) : OutputConsistent underWay t :=
  i.of_only only (only.onlyFaults n.2) (by simp) n.1

/-- A signal of a REPORTING fault. -/
theorem signalReporting (i : OutputConsistent underWay s) {c : FaultCode} (reporting : c.forcing = false) (ch : FaultChange) :
    OutputConsistent underWay (signalReporting c ch s) :=
  i.of_only (signalReporting_only c ch s) (onlyFaults_signalReporting c ch s) (by simpa using reporting)

/-- A move of Output Control out of a state that no present condition allows, or within TRIPPED. -/
theorem setOc {v : OutputControl} (i : OutputConsistent underWay s) (oc : v.Consistent)
    (stays : s.oc.state = .tripped → v.state = .tripped) : OutputConsistent underWay (s.setOc v) where
  oc := oc
  tripped ready c forcing present other := stays (i.tripped ready c forcing present other)

/-- A move of Output Control with no FORCING condition present. -/
theorem setOc_absent {v : OutputControl} (oc : v.Consistent)
    (absent : ∀ c : FaultCode, c.forcing = true → (faultRecord c s).present = false) :
    OutputConsistent underWay (s.setOc v) where
  oc := oc
  tripped _ c forcing present _ := absurd (present.symm.trans (absent c forcing)) (by decide)

/-! ### Output Control's own moves -/

theorem demandNotice (i : OutputConsistent underWay s) (n : Nat) : OutputConsistent underWay (demandNotice n s) := by
  unfold Machine.demandNotice
  split
  · rename_i arming
    exact i.setOc ⟨rfl, rfl, fun _ => rfl⟩ fun tripped => by simp [arming.1] at tripped
  · exact i

theorem linkLeftSynced (i : OutputConsistent underWay s) : OutputConsistent underWay (linkLeftSynced s) := by
  unfold Machine.linkLeftSynced
  split
  · rename_i arming
    exact i.setOc (i.oc.endArming arming _) fun tripped => by simp [arming] at tripped
  · exact i

theorem armWindowExpires (i : OutputConsistent underWay s) : OutputConsistent underWay (armWindowExpires s) := by
  unfold Machine.armWindowExpires
  split
  · rename_i due
    exact i.setOc (i.oc.endArming due.1 _) fun tripped => by simp [due.1] at tripped
  · exact i

theorem startArming (i : OutputConsistent underWay s) (taken : armRefusal s = none) :
    OutputConsistent underWay (startArming s) := by
  obtain ⟨disarmed, absent⟩ := armRefusal_eq_none taken
  exact setOc_absent (i.oc.startArming disarmed _ _) absent

theorem disarmFrom (i : OutputConsistent underWay s) : OutputConsistent underWay (disarmFrom s) := by
  have links {u : State} (j : OutputConsistent underWay u) :
      OutputConsistent underWay (disarmNotice .rear (disarmNotice .front u)) :=
    (j.of_plain (disarmNotice_only .front u)).of_plain (disarmNotice_only .rear _)
  cases state : s.oc.state with
  | armed =>
    rw [disarmFrom_armed state]
    refine links (of_only (i.setOc ?_ ?_) (notifyLeavingArmed_only _) (notifyLeavingArmed_onlyFaults _))
    · exact .of_idle (.inl rfl) rfl rfl (i.oc.window (by rw [state]; decide))
    · exact fun tripped => by simp [state] at tripped
  | arming =>
    rw [disarmFrom_arming state]
    exact links (i.setOc (i.oc.endArming state _) fun tripped => by simp [state] at tripped)
  | disarmed => rw [disarmFrom_idle (.inl state)]; exact i
  | tripped => rw [disarmFrom_idle (.inr state)]; exact i

/-- After a trip Output Control is TRIPPED, so whatever conditions are present are held (R136). -/
theorem of_trip (oc : s.oc.Consistent) (cause : TripCause) : OutputConsistent underWay (trip cause s) where
  oc := by
    rw [trip_oc]
    split
    · exact oc
    · exact oc.tripOc _ _
  tripped ready _ _ _ _ := by
    rw [(trip_only cause s).part_eq (by simp [tripParts])] at ready
    rw [trip_oc, if_neg (by simp [ready]), tripOc_state]

end OutputConsistent

/-! ### What is taken between two claims -/

theorem output_keptBetween (underWay : Option FaultCode) : KeptBetween (OutputConsistent underWay) where
  frame {s t} h i := by
    have oc : t.oc = s.oc := h .oc (by simp [coreParts])
    have part : t.hp.part = s.hp.part := h .part (by simp [coreParts])
    have fu : t.fu = s.fu := h .fu (by simp [coreParts])
    refine ⟨by rw [oc]; exact i.oc, fun ready c forcing present other => ?_⟩
    rw [part] at ready
    rw [faultRecord_of_fu fu] at present
    rw [oc]
    exact i.tripped ready c forcing present other
  se s v _ _ i := i.of_plain (setSe_only s v)
  periodTake s i := i.of_plain (setPt_only s _)
  stale s i := i.of_noNew (signalStale_only s) (signalStale_noNewForcing s)
  smDirection s x z i := i.of_only (smDirection_only x z s) (smDirection_onlyFaults x z s)
  notice s n i := i.demandNotice n
  shortfall s w i := i.of_only (stageMonitor_only w s) (stageMonitor_onlyFaults w s)
  trip s c i := .of_trip i.oc c
  arm s taken i := i.startArming taken
  trackWithdraw s x d i := i.of_only (withdrawInternal_only _ x d s) (withdrawInternal_track_onlyFaults x d s)

/-- A full signal: from the take until its forcing notice has reached Output Control the fault itself is under way (R143). -/
theorem OutputConsistent.signal {s : State} (i : OutputConsistent none s) (c : FaultCode) (ch : FaultChange)
    (gs : List (ClaimGap × Meanwhile)) : OutputConsistent none (signal c ch s (gaps gs)) := by
  have only := takeAtRecord_only c ch s
  unfold Machine.signal
  dsimp only
  refine OutputConsistent.of_only (cs := []) ?_ (actOutward_only _ _ _) fun d _ => faultRecord_actOutward _ d _ _
  split
  · have taken : OutputConsistent (some c) (takeAtRecord c ch s) := by
      refine ⟨by rw [only.oc_eq (by simp)]; exact i.oc, fun ready d forcing present other => ?_⟩
      have apart : d ≠ c := fun same => other (by rw [same])
      rw [faultRecord_takeAtRecord, if_neg apart] at present
      rw [only.part_eq (by simp)] at ready
      rw [only.oc_eq (by simp)]
      exact i.tripped ready d forcing present nofun
    exact .of_trip ((output_keptBetween (some c)).gaps gs .forcing taken).oc _
  · rename_i quiet
    refine i.of_noNew only fun d forcing present => ?_
    rw [faultRecord_takeAtRecord] at present
    split at present
    · rename_i same
      subst same
      exact FaultRecord.present_of_take forcing (by simpa using quiet) present
    · exact present

/-! ### Link state changes -/

/-- As `moveLink_keeps`, where the property is kept by signals of REPORTING faults: a link signals no others itself (R119). -/
theorem moveLink_keeps_reporting {P : State → Prop} {g : Gaps} (x : Axle) (new : LinkState) (s : State)
    (base : P (s.setLink x { s.link.get x with state := new }))
    (post : ∀ t, P t → P (postLinkCaps x t g)) (withdraw : ∀ t, P t → P (withdrawLinkCaps x t g))
    (sig : ∀ c b t, c.forcing = false → P t → P (signalReporting c (.live b) t))
    (claim : ∀ b t, P t → P (outClaim x b t g)) (left : ∀ t, P t → P (linkLeftSynced t)) : P (moveLink x new s g) := by
  have ite {c : Prop} [Decidable c] {f : State → State} (h : ∀ t, P t → P (f t)) {t : State} (i : P t) :
      P (if c then f t else t) := by
    split
    · exact h t i
    · exact i
  have lost (b : Bool) (t : State) : P t → P (signalReporting (linkLostFault x) (.live b) t) := sig _ b t (by simp)
  have broken (b : Bool) (t : State) : P t → P (signalReporting (linkBreakFault x) (.live b) t) := sig _ b t (by simp)
  unfold moveLink
  dsimp only
  refine ite left ?_
  rw [← ite_not]
  refine ite (claim _) (ite (broken _) (ite (lost _) (ite (broken _) (ite (lost _) ?_))))
  split
  · exact post _ base
  · exact ite withdraw base

theorem OutputConsistent.outClaim {s : State} (i : OutputConsistent none s) (x : Axle) (isOut : Bool)
    (gs : List (ClaimGap × Meanwhile)) : OutputConsistent none (outClaim x isOut s (gaps gs)) := by
  unfold Machine.outClaim
  dsimp only
  split
  · exact i.of_plain (setOut_only s _)
  · exact (i.of_plain (setOut_only s _)).signal _ _ gs

theorem OutputConsistent.moveLink {s : State} (i : OutputConsistent none s) (x : Axle) (new : LinkState)
    (gs : List (ClaimGap × Meanwhile)) : OutputConsistent none (moveLink x new s (gaps gs)) := by
  have gap {t : State} (g : ClaimGap) (j : OutputConsistent none t) : OutputConsistent none (gaps gs g t) :=
    (output_keptBetween none).gaps gs g j
  have post {t : State} (d : Direction) (j : OutputConsistent none t) : OutputConsistent none (postInternal .link x d 0 t) :=
    j.of_only (cs := []) (postInternal_only _ _ _ _ _) fun c _ => faultRecord_post (by decide) x d 0 c t
  have withdraw {t : State} (d : Direction) (j : OutputConsistent none t) :
      OutputConsistent none (withdrawInternal .link x d t) :=
    j.of_only (cs := []) (withdrawInternal_only _ _ _ _) fun c _ => faultRecord_withdraw (by decide) x d c t
  refine moveLink_keeps_reporting (P := OutputConsistent none) x new s (i.of_plain (ps := [.linkState x]) ?_)
    (fun _ j => post _ (gap _ (post _ (gap _ j)))) (fun _ j => withdraw _ (gap _ (withdraw _ (gap _ j))))
    (fun c b _ reporting j => j.signalReporting reporting (.live b)) (fun b _ j => j.outClaim x b gs)
    (fun _ j => j.linkLeftSynced)
  apply setLink_only <;> simp

/-! ### READY entry (R127, R136, R163) -/

/-- A link that enters STARTING from its reset values leaves Output Control alone (R118). -/
theorem linkReadyEntry_oc (x : Axle) (s : State) : (linkReadyEntry x s).oc = s.oc := by
  have off (l : Option Nat) : ((s.setLink x { AxleLink.reset with timer := l }).link.get x).state = .off := by
    rw [State.setLink_link, ByAxle.get_set_same]
    rfl
  unfold linkReadyEntry
  rw [moveLink_oc_quiet (by rw [off]; exact fun moved => absurd rfl moved), off]
  rfl

/-- The check at READY entry trips where a condition is present, whatever stood before it (R127). -/
theorem readyCheck_consistent {s : State} (oc : s.oc.Consistent) : OutputConsistent none (readyCheck s) := by
  unfold readyCheck
  split
  · exact .of_trip oc _
  · rename_i none
    exact ⟨oc, fun _ c forcing present _ => by simp [(lowestForcing_eq_none s).1 none c forcing] at present⟩

theorem readyEntry_consistent (s : State) : OutputConsistent none (readyEntry s) := by
  have entered : (linkReadyEntry .rear (linkReadyEntry .front (blocksReadyEntry s))).oc.Consistent := by
    rw [linkReadyEntry_oc, linkReadyEntry_oc]
    exact .of_idle (.inl rfl) rfl rfl rfl
  unfold readyEntry
  refine OutputConsistent.of_only ?_ (evaluateHostLink_only _) (evaluateHostLink_onlyFaults _)
  exact (readyCheck_consistent entered).of_only (cs := []) (updateAttn_only _) fun _ _ => rfl

/-! ### Steps -/

theorem output_kept : Kept (fun _ => True) (OutputConsistent none) where
  toKeptBetween := output_keptBetween none
  premise _ _ := trivial
  tb s v _ i := i.of_plain (setTb_only s v)
  select s n p _ i := i.of_plain (setPt_only s _)
  write s n p _ _ _ i := i.of_plain (setPt_only s _)
  capFull s i := i.signalReporting rfl .event
  noticeLost s i := i.signalReporting rfl .event
  hostLink s i := i.of_only (evaluateHostLink_only s) (evaluateHostLink_onlyFaults s)
  inverter s x d n i :=
    i.of_only (cs := []) (postInternal_only _ x d n s) fun c _ => faultRecord_post (by decide) x d n c s
  trackPost s x d i := i.of_only (postInternal_only _ x d 0 s) (postInternal_track_onlyFaults x d 0 s)
  smFrame s x f st i := i.of_only (smFrame_only x f st s) (smFrame_onlyFaults x f st s)
  timebase s b gs i := (i.of_plain (setTb_only s _)).signal _ _ gs
  test s set c i := by
    unfold testFault
    split
    · exact i
    · exact i.signal c _ []
  faultRead s z i := i.of_noNew ((setFu_only s _).trans (updateAttn_only _)) (mapAll_noNewForcing s fun _ _ => rfl)
  mask s set i := i.of_noNew ((setFu_only s _).trans (updateAttn_only _)) (mapAll_noNewForcing s fun _ _ => rfl)
  disarm s i := i.disarmFrom
  clear s tripped absent i := by
    obtain ⟨enF, enR⟩ := i.oc.lines_low (by rw [tripped]; decide)
    exact .setOc_absent (.of_idle (.inl rfl) enF enR (i.oc.window (by rw [tripped]; decide)))
      ((lowestForcing_eq_none s).1 absent)
  window s i := i.armWindowExpires
  countdown s i := i.setOc i.oc.countDown id
  move s x new gs i := i.moveLink x new gs
  ready s p _ _ _ := readyEntry_consistent _
  reset s c := ⟨.of_idle (.inl rfl) rfl rfl rfl, nofun⟩

/-- Settles O54: the primitive operations keep `OutputConsistent` (`output_kept`), the invariant's three parts as one. -/
theorem stepKeepsOutputControl : Obligations.StepKeepsOutputControl := fun s t enables window forcing e =>
  (outputConsistent_iff t).1 (output_kept.step trivial ((outputConsistent_iff s).2 ⟨enables, window, forcing⟩) e)

end Sys2Proof.Machine
end

section
/-! ARM: its six conditions in order, and the entry to ARMING (O29). -/

namespace Sys2Proof.Machine

/-- A request that is refused in STANDBY is handed to its owner in READY only (R159). -/
theorem Handed.part_ready {k : RequestKind} {f : HostFrame} {s : State} (h : Handed k f s)
    (refused : k.refusedByState .standby = true) : s.hp.part = .ready := by
  obtain ⟨-, -, -, -, -, -, taken⟩ := h
  cases part : s.hp.part with
  | ready => rfl
  | standby => rw [part, refused] at taken; cases taken

/-! ### The conditions in order (R130) -/

section
variable {s : State} (ready : s.hp.part = .ready)
include ready

theorem armRefusal_notDisarmed (state : s.oc.state ≠ .disarmed) : armRefusal s = some 2 := by
  simp [armRefusal, ready, state]

variable (state : s.oc.state = .disarmed)
include state

theorem armRefusal_front (front : s.link.front.state ≠ .synced) : armRefusal s = some 3 := by
  simp [armRefusal, ready, state, front]

variable (front : s.link.front.state = .synced)
include front

theorem armRefusal_rear (rear : s.link.rear.state ≠ .synced) : armRefusal s = some 4 := by
  simp [armRefusal, ready, state, front, rear]

variable (rear : s.link.rear.state = .synced)
include rear

theorem armRefusal_test (test : ∃ c, (faultRecord c s).test = true) : armRefusal s = some 5 := by
  simp [armRefusal, ready, state, front, rear, (anyTest_iff s).2 test]

variable (noTest : ∀ c, (faultRecord c s).test = false)
include noTest

theorem armRefusal_live (live : ∃ c : FaultCode, c.forcing = true ∧ (faultRecord c s).live = true) :
    armRefusal s = some 6 := by
  have test : ¬anyTest s = true := by simp [anyTest_iff, noTest]
  simp [armRefusal, ready, state, front, rear, test, (anyForcingLive_iff s).2 live]

theorem armRefusal_none (noLive : ∀ c : FaultCode, c.forcing = true → (faultRecord c s).live = false) :
    armRefusal s = none := by
  have test : ¬anyTest s = true := by simp [anyTest_iff, noTest]
  have live : ¬anyForcingLive s = true := by
    rw [anyForcingLive_iff]
    rintro ⟨c, forcing, live⟩
    exact absurd (live.symm.trans (noLive c forcing)) (by decide)
  simp [armRefusal, ready, state, front, rear, test, live]

end

/-! ### What ARM does -/

section
variable {f : HostFrame} {s : State}

/-- An ARM that is refused sends the number of its condition and changes nothing (R130). -/
theorem ownerArm_refused {n : Nat} (refusal : armRefusal s = some n) :
    Answered f .state (u8 n) s (ownerArm f (popRequest s)) ∧ OnlyChanges [.tx, .requests] s (ownerArm f (popRequest s)) := by
  have refused : ownerArm f (popRequest s) = reply f .state (u8 n) (popRequest s) := by
    have same : armRefusal (popRequest s) = some n := refusal
    simp only [ownerArm, same]
  rw [refused]
  exact ⟨answered_reply_popRequest _ _ _ _, reply_popRequest_only _ _ _ _⟩

/-- An ARM that is taken enters ARMING (R130). -/
theorem ownerArm_taken (refusal : armRefusal s = none) :
    Answered f .ok [0#8] s (ownerArm f (popRequest s)) ∧ OnlyChanges [.oc, .tx, .requests] s (ownerArm f (popRequest s))
      ∧ (ownerArm f (popRequest s)).oc = { s.oc with
          state := .arming, armMark := s.di.acceptedCount, armWindow := some s.hp.params.armWindowMs,
          lastOutcome := .none } := by
  have taken : ownerArm f (popRequest s) = reply f .ok [0#8] (startArming (popRequest s)) := by
    have same : armRefusal (popRequest s) = none := refusal
    simp only [ownerArm, same]
    rfl
  have started : OnlyChanges [.oc, .tx, .requests] s (startArming (popRequest s)) :=
    ((popRequest_only s).mono (by simp)).trans ((startArming_only _).mono (by simp))
  rw [taken]
  exact ⟨answered_reply (startArming_only _) (by simp) (by simp) _ _, reply_mono (by simp) _ _ _ started,
    (reply_only _ _ _ _).oc_eq (by simp)⟩

/-- Condition 2 of R130 for a handed request. The statement of O29 groups its clauses so that it leaves this one out: its
alternative "n = 2 and OC is not DISARMED" stands beside the refusals, not among their premises. -/
theorem arm_refused_notDisarmed (h : Handed .arm f s) (state : s.oc.state ≠ .disarmed) :
    ∃ t, exec .arm s = .next t ∧ Answered f .state (u8 2) s t ∧ OnlyChanges [.tx, .requests] s t :=
  ⟨_, inOperation_handed h ownerArm, ownerArm_refused (armRefusal_notDisarmed (h.part_ready rfl) state)⟩

end

/-- Settles O29: condition 1 is the table of R159 (`takeRequest_refused`), the others are `armRefusal_front` to
`armRefusal_live`, and where all hold `armRefusal_none` enters ARMING. -/
theorem armConditions : Obligations.ArmConditions := by
  refine fun s f => ⟨fun head kind length standby => ?_, fun h => ⟨_, inOperation_handed h ownerArm, fun n => ?_⟩⟩
  · have refused := takeRequest_refused (k := .arm) head kind (by rw [length]; rfl) (by rw [standby]; rfl) ownerArm
    have answers : exec .arm s = .next (reply f .state [1#8] (popRequest s)) := by
      show inOperation (takeRequest .arm ownerArm) s = _
      rw [inOperation, if_neg (by simp [head.1]), refused]
      rfl
    exact ⟨_, answers, answered_reply_popRequest _ _ _ _, reply_popRequest_only _ _ _ _⟩
  · have ready := h.part_ready rfl
    refine .inr ⟨fun fails => ownerArm_refused ?_, fun state front rear noTest noLive =>
      ownerArm_taken (armRefusal_none ready state front rear noTest noLive)⟩
    rcases fails with ⟨state, ⟨rfl, front⟩ | ⟨front, ⟨rfl, rear⟩ | ⟨rear, ⟨rfl, test⟩ | ⟨noTest, rfl, live⟩⟩⟩⟩
    · exact armRefusal_front ready state front
    · exact armRefusal_rear ready state front rear
    · exact armRefusal_test ready state front rear test
    · exact armRefusal_live ready state front rear noTest live

end Sys2Proof.Machine
end

section
/-! SUPPORT. What the notices that OC has left ARMED leave of the monitors, the slots and the fault records (R95, R100,
R129). -/

namespace Sys2Proof.Machine

/-- The slots after a Slip Monitor has taken the notice: its SLIP entry, where it has one, is withdrawn (R95). -/
theorem smLeavesArmed_slots (x : Axle) (s : State) (src : InternalSource) (y : Axle) (d : Direction) :
    (smLeavesArmed x s).ct.slots.get src y d
      = if src = .slip ∧ y = x ∧ (s.sm.get x).cap.isSome = true ∧ (s.sm.get x).counting = some d then none
        else s.ct.slots.get src y d := by
  have sets (t : State) (v : SlipMonitor) : (t.setSm x v).ct = t.ct := rfl
  have signal (b : Bool) (t : State) : (if b then signalReporting (slipFault x) (.live false) t else t).ct = t.ct := by
    split
    · exact signalReporting_ct _ _ _
    · rfl
  unfold smLeavesArmed
  dsimp only
  rw [signal, sets]
  split
  · rename_i cap counting
    rw [withdrawInternal_slots, InternalSlots.get_set, cap, counting]
    simp [eq_comm]
  · rename_i absent
    refine (if_neg ?_).symm
    rintro ⟨-, -, cap, counting⟩
    obtain ⟨n, cap⟩ := Option.isSome_iff_exists.1 cap
    exact absent n d cap counting

theorem notifyLeavingArmed_slots (s : State) (src : InternalSource) (x : Axle) (d : Direction) :
    (notifyLeavingArmed s).ct.slots.get src x d
      = if src = .slip ∧ (s.sm.get x).cap.isSome = true ∧ (s.sm.get x).counting = some d then none
        else s.ct.slots.get src x d := by
  have rear : (smLeavesArmed .front s).sm.get .rear = s.sm.get .rear := (smLeavesArmed_only .front s).sm_eq .rear (by simp)
  show (smLeavesArmed .rear (smLeavesArmed .front s)).ct.slots.get src x d = _
  by_cases held : src = .slip ∧ (s.sm.get x).cap.isSome = true ∧ (s.sm.get x).counting = some d
  · obtain ⟨slip, cap⟩ := id held
    rw [if_pos held]
    cases x with
    | front => rw [smLeavesArmed_slots, if_neg (fun other => nomatch other.2.1), smLeavesArmed_slots, if_pos ⟨slip, rfl, cap⟩]
    | rear => rw [smLeavesArmed_slots, rear, if_pos ⟨slip, rfl, cap⟩]
  · rw [if_neg held]
    cases x with
    | front =>
      rw [smLeavesArmed_slots, if_neg (fun other => nomatch other.2.1), smLeavesArmed_slots,
        if_neg fun ⟨slip, _, cap⟩ => held ⟨slip, cap⟩]
    | rear =>
      rw [smLeavesArmed_slots, rear, if_neg fun ⟨slip, _, cap⟩ => held ⟨slip, cap⟩, smLeavesArmed_slots,
        if_neg fun other => nomatch other.2.1]

/-- Each Slip Monitor is in IDLE with its monitored direction kept (R95). -/
theorem notifyLeavingArmed_sm (s : State) (x : Axle) :
    (notifyLeavingArmed s).sm.get x = { SlipMonitor.reset with monitored := (s.sm.get x).monitored } := by
  show (smLeavesArmed .rear (smLeavesArmed .front s)).sm.get x = _
  cases x with
  | front => rw [(smLeavesArmed_only .rear _).sm_eq .front (by simp), smLeavesArmed_sm]; rfl
  | rear => rw [smLeavesArmed_sm, (smLeavesArmed_only .front s).sm_eq .rear (by simp)]; rfl

theorem notifyLeavingArmed_tm (s : State) (x : Axle) : (notifyLeavingArmed s).tm.get x = { run := 0 } := by
  cases x <;> rfl

/-- From `s` to `t` the monitors have been set back: SM is in IDLE, its SLIP entry and condition are gone, TM has no run (R95,
R100, R129). -/
structure MonitorsSetBack (s t : State) : Prop where
  sm : ∀ x, t.sm.get x = { SlipMonitor.reset with monitored := (s.sm.get x).monitored }
  tm : ∀ x, t.tm.get x = { run := 0 }
  withdrawn : ∀ x d, (s.sm.get x).cap.isSome = true → (s.sm.get x).counting = some d → t.ct.slots.get .slip x d = none
  kept : ∀ src x d, src ≠ .slip ∨ (s.sm.get x).cap = none ∨ (s.sm.get x).counting ≠ some d →
    t.ct.slots.get src x d = s.ct.slots.get src x d
  ended : ∀ x, (s.sm.get x).live = true → LiveTaken (slipFault x) false s t
  absent : ∀ x, (s.sm.get x).live = false → faultRecord (slipFault x) t = faultRecord (slipFault x) s
  faults : OnlyFaults [.slipF, .slipR] s t

theorem monitorsSetBack_notify (s : State) : MonitorsSetBack s (notifyLeavingArmed s) where
  sm := notifyLeavingArmed_sm s
  tm := notifyLeavingArmed_tm s
  withdrawn x d cap counting := by rw [notifyLeavingArmed_slots, if_pos ⟨rfl, cap, counting⟩]
  kept src x d none := by
    rw [notifyLeavingArmed_slots, if_neg]
    rintro ⟨slip, cap, counting⟩
    rcases none with other | noCap | notCounting
    · exact other slip
    · rw [noCap] at cap; cases cap
    · exact notCounting counting
  ended x live := liveTaken_of_take (by
    rw [faultRecord_notifyLeavingArmed, if_pos]
    cases x
    · exact .inl ⟨rfl, live⟩
    · exact .inr ⟨rfl, live⟩)
  absent x quiet := by
    rw [faultRecord_notifyLeavingArmed, if_neg]
    cases x <;> simp [slipFault] at quiet ⊢ <;> exact quiet
  faults := notifyLeavingArmed_onlyFaults s

/-- What comes before and after the notices leaves the monitors, the slots and the records alone. -/
theorem MonitorsSetBack.between {ps qs : List Part} {s s' t t' : State} (h : MonitorsSetBack s' t)
    (before : OnlyChanges ps s s') (after : OnlyChanges qs t t')
    (n : (∀ x, .sm x ∉ ps) ∧ .slots ∉ ps ∧ .fu ∉ ps) (m : (∀ x, .sm x ∉ qs ∧ .tm x ∉ qs) ∧ .slots ∉ qs ∧ .fu ∉ qs) :
    MonitorsSetBack s t' := by
  obtain ⟨noSm, noSlots, noFu⟩ := n
  obtain ⟨noMonitors, noSlots', noFu'⟩ := m
  have sm (x : Axle) : s'.sm.get x = s.sm.get x := before.sm_eq x (noSm x)
  have slots : s'.ct.slots = s.ct.slots := before.slots_eq noSlots
  have record (c : FaultCode) : faultRecord c s' = faultRecord c s := before.faultRecord_eq noFu c
  have slots' : t'.ct.slots = t.ct.slots := after.slots_eq noSlots'
  have record' (c : FaultCode) : faultRecord c t' = faultRecord c t := after.faultRecord_eq noFu' c
  obtain ⟨hsm, htm, withdrawn, kept, ended, absent, faults⟩ := h
  simp only [LiveTaken, OnlyFaults, sm, slots, record] at hsm withdrawn kept ended absent faults
  refine ⟨fun x => (after.sm_eq x (noMonitors x).1).trans (hsm x), fun x => (after.tm_eq x (noMonitors x).2).trans (htm x),
    ?_, ?_, ?_, ?_, ?_⟩
  · rw [slots']; exact withdrawn
  · rw [slots']; exact kept
  · simp only [LiveTaken, record']; exact ended
  · simp only [record']; exact absent
  · simp only [OnlyFaults, record']; exact faults

end Sys2Proof.Machine
end

section
/-! DISARM (O30). -/

namespace Sys2Proof.Machine

/-! ### The two notices to the links (R109) -/

theorem disarmNotices_link (s : State) (x : Axle) :
    (disarmNotice .rear (disarmNotice .front s)).link.get x = { s.link.get x with waiting := none } := by
  cases x <;> rfl

theorem disarmNotices_only (s : State) :
    OnlyChanges [.line .front, .line .rear] s (disarmNotice .rear (disarmNotice .front s)) :=
  (disarmNotice_only .front s).seq (disarmNotice_only .rear _) (by simp) (by simp)

/-! ### Out of ARMING and out of ARMED (R135) -/

section
variable {s : State}

theorem disarmFrom_arming_effect (h : s.oc.state = .arming) :
    (disarmFrom s).oc = { s.oc with state := .disarmed, armWindow := none, lastOutcome := .disarm }
      ∧ (∀ x, (disarmFrom s).link.get x = { s.link.get x with waiting := none })
      ∧ OnlyChanges [.oc, .line .front, .line .rear] s (disarmFrom s) := by
  rw [disarmFrom_arming h]
  exact ⟨(disarmNotices_only _).oc_eq (by simp), disarmNotices_link _,
    (setOc_only s _).seq (disarmNotices_only _) (by simp) (by simp)⟩

theorem disarmFrom_armed_effect (h : s.oc.state = .armed) :
    (disarmFrom s).oc = { s.oc with state := .disarmed, enF := false, enR := false }
      ∧ (∀ x, (disarmFrom s).link.get x = { s.link.get x with waiting := none })
      ∧ MonitorsSetBack s (disarmFrom s)
      ∧ OnlyChanges ([.oc, .line .front, .line .rear] ++ leavingParts) s (disarmFrom s) := by
  rw [disarmFrom_armed h]
  generalize ({ s.oc with state := .disarmed, enF := false, enR := false } : OutputControl) = v
  have oc := setOc_only s v
  have notified := notifyLeavingArmed_quiet (s.setOc v)
  have links := disarmNotices_only (notifyLeavingArmed (s.setOc v))
  refine ⟨(links.oc_eq (by simp)).trans (notified.oc_eq (by simp [leavingParts])), fun x => ?_,
    (monitorsSetBack_notify _).between oc links (by simp) (by simp), ?_⟩
  · rw [disarmNotices_link, notifyLeavingArmed_link]
    rfl
  · exact ((oc.mono (by simp)).trans (notified.mono (List.subset_append_right _ _))).trans (links.mono (by simp))

end

/-! ### The request -/

/-- What a reply leaves of a link is what stood before it. -/
theorem reply_link (f : HostFrame) (r : ResultCode) (p : List Byte) (s : State) (x : Axle) :
    (reply f r p s).link.get x = s.link.get x := (reply_only f r p s).link_eq x (by simp [linkParts])

theorem reply_oc (f : HostFrame) (r : ResultCode) (p : List Byte) (s : State) : (reply f r p s).oc = s.oc :=
  (reply_only f r p s).oc_eq (by simp)

/-- The take of the request and its reply reach no monitor, slot or record. -/
theorem MonitorsSetBack.request {s t : State} (h : MonitorsSetBack (popRequest s) t) (f : HostFrame) (r : ResultCode)
    (p : List Byte) : MonitorsSetBack s (reply f r p t) :=
  h.between (popRequest_only s) (reply_only f r p t) (by simp) (by simp)

theorem ownerDisarm_tripped {s : State} (h : s.oc.state = .tripped) (f : HostFrame) :
    ownerDisarm f s = reply f .state [] s := if_pos h

theorem ownerDisarm_taken {s : State} (h : s.oc.state ≠ .tripped) (f : HostFrame) :
    ownerDisarm f s = reply f .ok [] (disarmFrom s) := if_neg h

/-- Settles O30: `disarmFrom_arming_effect` and `disarmFrom_armed_effect`, the latter with what the notices do to the monitors
(`monitorsSetBack_notify`). -/
theorem disarmStopsTorque : Obligations.DisarmStopsTorque := by
  intro s f h
  have popped := popRequest_only s
  have taken {o : OcState} (state : s.oc.state = o) (other : o ≠ .tripped) :
      ownerDisarm f (popRequest s) = reply f .ok [] (disarmFrom (popRequest s)) :=
    ownerDisarm_taken (s := popRequest s) (by rw [← state] at other; exact other) f
  refine ⟨_, inOperation_handed h ownerDisarm, fun tripped => ?_, fun disarmed => ?_, fun arming => ?_, fun armed => ?_⟩
  · rw [ownerDisarm_tripped (s := popRequest s) tripped]
    exact ⟨answered_reply_popRequest _ _ _ _, reply_popRequest_only _ _ _ _⟩
  · rw [taken disarmed (by decide), disarmFrom_idle (s := popRequest s) (.inl disarmed)]
    exact ⟨answered_reply_popRequest _ _ _ _, reply_popRequest_only _ _ _ _⟩
  · obtain ⟨oc, link, only⟩ := disarmFrom_arming_effect (s := popRequest s) arming
    rw [taken arming (by decide)]
    exact ⟨answered_reply only (by simp) (by simp) _ _, (reply_oc _ _ _ _).trans oc,
      fun x => (reply_link _ _ _ _ x).trans (link x),
      reply_mono (by simp) _ _ _ ((popped.mono (by simp)).trans (only.mono (by simp)))⟩
  · obtain ⟨oc, link, monitors, only⟩ := disarmFrom_armed_effect (s := popRequest s) armed
    rw [taken armed (by decide)]
    obtain ⟨sm, tm, withdrawn, kept, ended, absent, faults⟩ := monitors.request f .ok []
    exact ⟨answered_reply only (by simp [leavingParts]) (by simp [leavingParts]) _ _, (reply_oc _ _ _ _).trans oc,
      fun x => (reply_link _ _ _ _ x).trans (link x), sm, tm, withdrawn, kept, ended, absent, faults,
      reply_mono (by simp) _ _ _ ((popped.mono (by simp)).trans (only.mono (by simp [leavingParts])))⟩

end Sys2Proof.Machine
end

section
/-! TORQUE OFF and CLEAR TRIP (O31). -/

namespace Sys2Proof.Machine

/-! ### The trip -/

/-- Output Control after a trip, field by field: what a trip sets depends on the state it leaves (R129, R136). -/
theorem tripOc_eq {o : OutputControl} (h : o.state ≠ .tripped) (cause : TripCause) (period : Nat) :
    tripOc cause period o = { o with
      state := .tripped
      tripRecord := some ⟨cause, period⟩
      armWindow := if o.state = .arming then none else o.armWindow
      lastOutcome := if o.state = .arming then .trip else o.lastOutcome
      enF := if o.state = .armed then false else o.enF
      enR := if o.state = .armed then false else o.enR } := by
  cases state : o.state with
  | tripped => contradiction
  | disarmed | arming | armed => simp [tripOc, state]

/-- A trip out of ARMED sets the monitors back (R95, R100, R129). -/
theorem monitorsSetBack_trip {s : State} (ready : s.hp.part ≠ .standby) (armed : s.oc.state = .armed) (cause : TripCause) :
    MonitorsSetBack s (trip cause s) := by
  have breaks (t : State) : OnlyChanges [.line .front, .line .rear] t (torqueOffBreak .rear (torqueOffBreak .front t)) :=
    (torqueOffBreak_only .front t).seq (torqueOffBreak_only .rear _) (by simp) (by simp)
  unfold trip
  simp only [ready, if_false, armed]
  exact (monitorsSetBack_notify _).between (setOc_only s _) (breaks _) (by simp) (by simp)

/-! ### TORQUE OFF (R137) -/

section
variable {f : HostFrame} {s : State}

/-- In TRIPPED the reply carries the record of the trip that stands. -/
theorem ownerTorqueOff_tripped (tripped : s.oc.state = .tripped) :
    ownerTorqueOff f s = reply f .ok (tripFields s.oc.tripRecord) s := by
  simp only [ownerTorqueOff, trip_tripped tripped]

theorem takeTorqueOff_tripOc (h : Handed .torqueOff f s) (state : s.oc.state ≠ .tripped) :
    (takeRequest .torqueOff ownerTorqueOff s).oc = tripOc .host s.se.periodNumber s.oc := by
  rw [takeTorqueOff h state, reply_oc, trip_oc]
  exact if_neg h.torqueOff_ready

theorem takeTorqueOff_monitors (h : Handed .torqueOff f s) (armed : s.oc.state = .armed) :
    MonitorsSetBack s (takeRequest .torqueOff ownerTorqueOff s) := by
  rw [takeTorqueOff h (by rw [armed]; decide)]
  exact (monitorsSetBack_trip (s := popRequest s) h.torqueOff_ready armed .host).request f _ _

theorem takeTorqueOff_only (h : Handed .torqueOff f s) (state : s.oc.state ≠ .tripped) :
    OnlyChanges ([.oc, .line .front, .line .rear, .tx, .requests] ++ leavingParts) s
      (takeRequest .torqueOff ownerTorqueOff s) := by
  rw [takeTorqueOff h state]
  exact reply_mono (by simp) _ _ _ (((popRequest_only s).mono (by simp)).trans
    ((trip_quiet .host (popRequest s)).mono (by simp [leavingParts])))

end

/-! ### CLEAR TRIP (R138) -/

/-- The lowest FORCING code whose condition is present (R138). -/
theorem lowestForcing_eq_some {s : State} {c : FaultCode} (forcing : c.forcing = true)
    (present : (faultRecord c s).present = true)
    (lowest : ∀ d : FaultCode, d.forcing = true → d.code < c.code → (faultRecord d s).present = false) :
    lowestForcing s = some c := by
  have stale := lowest .demandStale rfl
  have noAxle := lowest .noAxle rfl
  cases c with
  | demandStale => simp [lowestForcing, forcingCodes, present]
  | noAxle => simp [lowestForcing, forcingCodes, present, stale (by decide)]
  | timebase => simp [lowestForcing, forcingCodes, present, stale (by decide), noAxle (by decide)]
  | _ => cases forcing

section
variable {f : HostFrame} {s : State}

theorem ownerClearTrip_notTripped (state : s.oc.state ≠ .tripped) : ownerClearTrip f s = reply f .state [0#8] s :=
  if_neg state

theorem ownerClearTrip_present {c : FaultCode} (tripped : s.oc.state = .tripped) (lowest : lowestForcing s = some c) :
    ownerClearTrip f s = reply f .state (u8 c.code) s := by
  simp only [ownerClearTrip, tripped, if_true, lowest]

theorem ownerClearTrip_clears (tripped : s.oc.state = .tripped) (absent : lowestForcing s = none) :
    ownerClearTrip f s = reply f .ok [0#8] (s.setOc { s.oc with state := .disarmed }) := by
  simp only [ownerClearTrip, tripped, if_true, absent]
  rfl

end

/-- Settles O31: TORQUE OFF is the trip (`tripOc_eq`, `takeTorqueOff_link`, `monitorsSetBack_trip`); CLEAR TRIP is decided by
the lowest FORCING condition present (`lowestForcing_eq_some`, `lowestForcing_eq_none`). -/
theorem torqueOffAndClearTrip : Obligations.TorqueOffAndClearTrip := by
  refine ⟨fun s f h => ?_, fun s f h => ?_⟩
  · have answers : exec .torqueOff s = .next (takeRequest .torqueOff ownerTorqueOff s) := by
      rw [takeRequest_handed h]
      exact inOperation_handed h ownerTorqueOff
    have again (tripped : s.oc.state = .tripped) : takeRequest .torqueOff ownerTorqueOff s
        = reply f .ok (tripFields s.oc.tripRecord) (popRequest s) := by
      rw [takeRequest_handed h]
      exact ownerTorqueOff_tripped (s := popRequest s) tripped
    refine ⟨_, answers, fun r tripped record => ?_, fun tripped noRecord => ?_, fun state => ⟨takeTorqueOff_answered h state,
      ?_, takeTorqueOff_link h state, takeTorqueOff_only_unarmed h state, fun armed => ?_⟩⟩
    · rw [again tripped, record]
      exact ⟨answered_reply_popRequest _ _ _ _, reply_popRequest_only _ _ _ _⟩
    · rw [again tripped, noRecord]
      exact ⟨answered_reply_popRequest _ _ _ _, reply_popRequest_only _ _ _ _⟩
    · rw [takeTorqueOff_tripOc h state, tripOc_eq state]
    · obtain ⟨sm, tm, withdrawn, kept, ended, absent, faults⟩ := takeTorqueOff_monitors h armed
      exact ⟨sm, tm, withdrawn, kept, ended, absent, faults, (takeTorqueOff_only h state).mono (by simp [leavingParts])⟩
  · refine ⟨_, inOperation_handed h ownerClearTrip, fun state => ?_, fun c tripped forcing present lowest => ?_,
      fun tripped absent => ?_⟩
    · rw [ownerClearTrip_notTripped (s := popRequest s) state]
      exact ⟨answered_reply_popRequest _ _ _ _, reply_popRequest_only _ _ _ _⟩
    · rw [ownerClearTrip_present (s := popRequest s) tripped (lowestForcing_eq_some (s := popRequest s) forcing present lowest)]
      exact ⟨answered_reply_popRequest _ _ _ _, reply_popRequest_only _ _ _ _⟩
    · rw [ownerClearTrip_clears (s := popRequest s) tripped ((lowestForcing_eq_none (popRequest s)).2 absent)]
      exact ⟨answered_reply (setOc_only _ _) (by simp) (by simp) _ _, reply_oc _ _ _ _,
        reply_mono (by simp) _ _ _ (((popRequest_only s).mono (by simp)).trans ((setOc_only _ _).mono (by simp)))⟩

end Sys2Proof.Machine
end

section
/-! The resets: POWER_UP, PIN_RESET and RESETN_RELEASE, the RESET request and the software reset after it (O5 to O7). -/

namespace Sys2Proof.Machine

/-! ### The pin resets (R168) -/

theorem resetBlocks_atResetValues (cause : ResetCause) (s : State) : AtResetValues cause s (resetBlocks cause s) :=
  ⟨rfl, rfl, rfl, rfl, rfl, rfl, rfl, rfl, rfl, rfl, rfl, rfl, rfl⟩

theorem resetBlocks_link (cause : ResetCause) (s : State) (x : Axle) : (resetBlocks cause s).link.get x = AxleLink.reset := by
  cases x <;> rfl

/-- Settles O5: both commands are `resetBlocks`, and RESETn is no register of it. -/
theorem powerUpAndPinReset : Obligations.PowerUpAndPinReset := fun s =>
  ⟨⟨_, rfl, resetBlocks_atResetValues .power s, resetBlocks_link .power s, rfl⟩,
    ⟨_, rfl, resetBlocks_atResetValues .pin s, resetBlocks_link .pin s, rfl⟩⟩

/-! ### The hold in reset (R168) -/

/-- While RESETn is low a command that acts in operation alone changes nothing. -/
theorem inOperation_held {effect : State → State} {s : State} (held : s.resetnLow = true) : inOperation effect s = .next s := by
  simp [inOperation, held]

/-- A command whose effect leaves the state as it is. -/
theorem inOperation_idle {effect : State → State} {s : State} (idle : effect s = s) : inOperation effect s = .next s := by
  simp [inOperation, idle]

theorem inOperation_operating {effect : State → State} {s : State} (operating : s.resetnLow = false) :
    inOperation effect s = .next (effect s) := by
  simp [inOperation, operating]

/-- Settles O6: every command but the five that act in reset stands under `inOperation`. -/
theorem resetnReleaseAndHold : Obligations.ResetnReleaseAndHold := by
  refine ⟨fun s => ⟨_, rfl, rfl, setResetnLow_only s false⟩, fun c s held others clock => ?_⟩
  cases c with
  | powerUp | pinReset | resetnRelease | refclkReturns => exact absurd (by simp) others
  | refclkStops m => exact absurd rfl (clock m)
  | clockCheckWindowEnd edges gs => exact inOperation_held (effect := fun s => judgeWindow edges s (gaps gs)) held
  | _ => exact inOperation_held held

/-! ### Requests that are not taken (R158) -/

/-- The command of a request kind takes the head of the queue for the kind's owner. -/
theorem exec_command (k : RequestKind) : ∃ owner, ∀ s, exec k.command s = inOperation (takeRequest k owner) s := by
  cases k <;> exact ⟨_, fun _ => rfl⟩

theorem takeRequest_cannotTake {s : State} (no : canTake s = false) (k : RequestKind) (owner : HostFrame → State → State) :
    takeRequest k owner s = s := by
  unfold takeRequest
  split
  · rfl
  · simp [no]

theorem takeRequest_otherKind {k : RequestKind} {s : State} (other : ∀ f, s.hp.requestQueue.head? = some f → f.kind ≠ k.code)
    (owner : HostFrame → State → State) : takeRequest k owner s = s := by
  unfold takeRequest
  split
  · rfl
  · rename_i f rest queue
    simp [other f (by rw [queue]; rfl)]

theorem takeUnknown_cannotTake {s : State} (no : canTake s = false) : takeUnknown s = s := by
  unfold takeUnknown
  split
  · rfl
  · simp [no]

/-- After a RESET no request is taken (R167). -/
theorem canTake_resetTaken {s : State} (reset : s.hp.resetTaken = true) : canTake s = false := by
  simp [canTake, reset]

/-! ### RESET (R167) -/

theorem outbox_abortSync (s : State) :
    outbox (abortSync s) = outbox s ++ (s.hp.pendingSync.map fun y => syncReply y.tag .aborted 0).toList := by
  unfold abortSync
  cases s.hp.pendingSync with
  | none => simp
  | some y => exact outbox_enqueueFrame _ _

theorem abortSync_pendingSync (s : State) : (abortSync s).hp.pendingSync = none := by
  unfold abortSync
  cases pending : s.hp.pendingSync with
  | none => exact pending
  | some y => exact (enqueueFrame_only _ _).pendingSync_eq (by simp)

/-- RESET at its owner: the replies go out, no SYNC is pending, and HP takes no further request. -/
theorem ownerReset_effect (f : HostFrame) (s : State) :
    outbox (ownerReset f s)
        = outbox s ++ (s.hp.pendingSync.map fun y => syncReply y.tag .aborted 0).toList ++ [replyFrame f .ok []]
      ∧ (ownerReset f s).hp.pendingSync = none ∧ (ownerReset f s).hp.resetTaken = true
      ∧ (ownerReset f s).hp.cause = s.hp.cause := by
  have replied := reply_only f .ok [] (abortSync s)
  have out : outbox (ownerReset f s) = outbox (reply f .ok [] (abortSync s)) := rfl
  refine ⟨?_, ?_, rfl, ?_⟩
  · rw [out, outbox_reply, outbox_abortSync]
  · exact (replied.pendingSync_eq (by simp)).trans (abortSync_pendingSync s)
  · exact (replied.cause_eq (by simp)).trans ((abortSync_only s).cause_eq (by simp))

/-! ### The software reset (R111, R167) -/

theorem exec_softwareReset {s : State} (operating : s.resetnLow = false) (taken : s.hp.resetTaken = true)
    (empty : s.hp.txQueue = []) (gone : s.hp.sending = none ∨ s.tb.refclk = true) :
    exec .softwareReset s = .next (softwareReset s) := by
  have sent : resetReplySent s = true := by simp [resetReplySent, taken, empty, gone]
  exact (inOperation_operating operating).trans (by rw [if_pos sent])

theorem softwareReset_link (s : State) (x : Axle) :
    (softwareReset s).link.get x = { AxleLink.reset with tail := (s.link.get x).tailAfterReset } := by
  cases x <;> rfl

section
variable {l : AxleLink}

theorem tailAfterReset_frame {g : StartedFrame} (flight : l.inFlight = some g) : l.tailAfterReset = .frame g l.txBits := by
  simp [AxleLink.tailAfterReset, flight]

variable (idle : l.inFlight = none)
include idle

theorem tailAfterReset_break (sending : l.breakSending = true) : l.tailAfterReset = .brk := by
  simp [AxleLink.tailAfterReset, idle, sending]

theorem tailAfterReset_idle (noBreak : l.breakSending = false) : l.tailAfterReset = l.tail := by
  simp [AxleLink.tailAfterReset, idle, noBreak]

end

/-- Settles O7: `ownerReset_effect`, then no request can be taken (`canTake_resetTaken`), then `softwareReset_link`. -/
theorem resetRequestThenSoftwareReset : Obligations.ResetRequestThenSoftwareReset := by
  refine ⟨fun s f h => ?_, fun s k taken => ⟨?_, inOperation_idle (takeUnknown_cannotTake (canTake_resetTaken taken))⟩,
    fun s operating taken empty gone => ?_⟩
  · obtain ⟨out, sync, taken, cause⟩ := ownerReset_effect f (popRequest s)
    have owned := ownerReset_only f (popRequest s)
    have answers := inOperation_handed h ownerReset
    obtain ⟨-, -, -, -, kind, -⟩ := h
    refine ⟨_, answers, ?_, owned.requestQueue_eq (by simp), sync, taken, cause,
      ((popRequest_only s).mono (by simp)).trans (owned.mono (by simp))⟩
    rw [out, replyFrame, kind]
    show outbox s ++ (s.hp.pendingSync.map fun y => syncReply y.tag .aborted 0).toList ++ _ = _
    cases s.hp.pendingSync <;> rfl
  · obtain ⟨owner, command⟩ := exec_command k
    exact (command s).trans (inOperation_idle (takeRequest_cannotTake (canTake_resetTaken taken) k owner))
  · refine ⟨_, exec_softwareReset operating taken empty gone, resetBlocks_atResetValues .software s, operating,
      fun x => ⟨_, softwareReset_link s x, fun g => tailAfterReset_frame, tailAfterReset_break, tailAfterReset_idle⟩⟩

end Sys2Proof.Machine
end

section
/-! The dispatch of requests: the request-by-state table, KIND_UNKNOWN and LENGTH, and what is not taken (O11, O12); the end of a
frame being sent (O10). -/

namespace Sys2Proof.Machine

/-! ### The end of the frame being sent (R161) -/

theorem startHostFrame_free {s : State} (clock : s.tb.refclk = true) (free : s.hp.sending = none) :
    (startHostFrame s).hp.sending = s.hp.txQueue.head? ∧ (startHostFrame s).hp.txQueue = s.hp.txQueue.tail := by
  cases queue : s.hp.txQueue with
  | nil => simp [startHostFrame, queue, free]
  | cons f rest => simp [startHostFrame, clock, queue, free]

/-- Settles O10: the line is freed, and `startHostFrame_free` starts the head of the queue. -/
theorem hostFrameSentStartsNext : Obligations.HostFrameSentStartsNext := by
  rintro s g ⟨operating, clock⟩ sending
  have ends : hostFrameSent s = startHostFrame (s.setHp { s.hp with sending := none, sendBits := 0 }) := by
    simp [hostFrameSent, clock, sending]
  obtain ⟨head, rest⟩ := startHostFrame_free (s := s.setHp { s.hp with sending := none, sendBits := 0 }) clock rfl
  refine ⟨_, inOperation_operating operating, ?_, ?_, hostFrameSent_only s⟩
  · rw [ends, head]
    rfl
  · rw [ends, rest]
    rfl

/-! ### The request-by-state table (R159, R160) -/

theorem refusedByState_standby {k : RequestKind} (other : k ∉ [RequestKind.setup, .reset, .status, .paramGet, .faultRead]) :
    k.refusedByState .standby = true := by
  cases k with
  | setup | reset | status | paramGet | faultRead => exact absurd (by simp) other
  | _ => rfl

theorem stateRefusalFields_eq (k : RequestKind) :
    k.stateRefusalFields = if k = .arm then [1#8] else List.replicate k.replyFieldBytes 0#8 := by
  cases k <;> rfl

/-- Settles O11: what the table refuses (`refusedByState_standby`) is answered as `takeRequest_refused` says. -/
theorem refusedByStateTable : Obligations.RefusedByStateTable := by
  intro s f k head kind length refused
  have state : k.refusedByState s.hp.part = true := by
    rcases refused with ⟨standby, other⟩ | ⟨ready, rfl⟩
    · rw [standby]
      exact refusedByState_standby other
    · rw [ready]
      rfl
  obtain ⟨owner, command⟩ := exec_command k
  refine ⟨_, (command s).trans (inOperation_operating head.1), ?_⟩
  rw [takeRequest_refused head kind length state, stateRefusalFields_eq]
  exact ⟨answered_reply_popRequest _ _ _ _, reply_popRequest_only _ _ _ _⟩

/-! ### KIND and LEN (R158) -/

theorem kindKnown_eq_false {b : Byte} (other : ∀ k : RequestKind, b ≠ k.code) : kindKnown b = false := by
  simp only [kindKnown, List.any_eq_false, decide_eq_true_eq]
  exact fun k _ same => other k same.symm

theorem lengthOk_eq_false {k : RequestKind} {n : Nat}
    (wrong : if k = .profileWrite ∨ k = .profileCheck then n < 5 else n ≠ k.payloadBytes) : k.lengthOk n = false := by
  cases k with
  | profileWrite | profileCheck => exact decide_eq_false (Nat.not_le.2 (by simpa using wrong : n < 5))
  | _ => simpa [RequestKind.lengthOk] using wrong

theorem AtHead.canTake {f : HostFrame} {s : State} (h : AtHead f s) : canTake s = true := by
  obtain ⟨-, noReset, place, -⟩ := h
  simp [Machine.canTake, noReset, place, Config.transmitPlaces]

/-- A full port takes no request (R158). -/
theorem canTake_full {s : State} (full : 6 ≤ s.hp.txQueue.length + (if s.hp.pendingSync.isSome then 1 else 0)) :
    canTake s = false := by
  simp [canTake, Config.transmitPlaces, Nat.not_lt.2 full]

/-- The request stands first in the queue. -/
theorem AtHead.queue {f : HostFrame} {s : State} (h : AtHead f s) : ∃ rest, s.hp.requestQueue = f :: rest := by
  obtain ⟨-, -, -, head⟩ := h
  exact List.head?_eq_some_iff.1 head

theorem takeUnknown_refused {f : HostFrame} {s : State} (h : AtHead f s) (unknown : kindKnown f.kind = false) :
    takeUnknown s = reply f .kindUnknown [] (popRequest s) := by
  obtain ⟨rest, queue⟩ := h.queue
  simp [takeUnknown, queue, h.canTake, unknown]

theorem takeRequest_wrongLength {k : RequestKind} {f : HostFrame} {s : State} (h : AtHead f s) (kind : f.kind = k.code)
    (wrong : k.lengthOk f.payload.length = false) (owner : HostFrame → State → State) :
    takeRequest k owner s = reply f .length [] (popRequest s) := by
  obtain ⟨rest, queue⟩ := h.queue
  simp [takeRequest, queue, h.canTake, kind, dispatch, wrong]

/-- Settles O12: checks 1 and 2 of R158 (`takeUnknown_refused`, `takeRequest_wrongLength`), and the two reasons for which a request
is not taken. -/
theorem kindAndLengthRefused : Obligations.KindAndLengthRefused := by
  refine ⟨fun s f head other => ⟨_, inOperation_operating head.1, ?_⟩, fun s f k head kind wrong => ?_, fun s k no => ?_⟩
  · rw [takeUnknown_refused head (kindKnown_eq_false other)]
    exact ⟨answered_reply_popRequest _ _ _ _, reply_popRequest_only _ _ _ _⟩
  · obtain ⟨owner, command⟩ := exec_command k
    refine ⟨_, (command s).trans (inOperation_operating head.1), ?_⟩
    rw [takeRequest_wrongLength head kind (lengthOk_eq_false wrong)]
    exact ⟨answered_reply_popRequest _ _ _ _, reply_popRequest_only _ _ _ _⟩
  · obtain ⟨owner, command⟩ := exec_command k
    refine (command s).trans (inOperation_idle ?_)
    rcases no with other | full
    · exact takeRequest_otherKind other owner
    · exact takeRequest_cannotTake (canTake_full full) k owner

end Sys2Proof.Machine
end

section
/-! SUPPORT. HOST_LINK as HP judges it: its level, its record, and the notice that is due (R143, R146, R156). -/

namespace Sys2Proof.Machine

/-- The notices of a change are those of a longer stretch, where what comes before it sends nothing and reaches no record. -/
theorem NoticesSent.from_earlier {rest : List HostFrame} {ps : List Part} {s t u : State} (h : NoticesSent rest t u)
    (only : OnlyChanges ps s t) (faults : OnlyFaults [] s t)
    (n : ∀ p ∈ [Part.tx, .skips, .cause], p ∉ ps := by simp) : NoticesSent rest s u := by
  have due : noticesDue s u = noticesDue t u := by simp only [noticesDue, faults _ (List.not_mem_nil)]
  unfold NoticesSent
  rw [due, ← only.outbox_eq (n .tx (by simp)), ← only.noticeSkips_eq (n .skips (by simp)),
    ← only.reportSkips_eq (n .skips (by simp)), ← PortFree.of_only only (n .tx (by simp)) (n .cause (by simp))]
  exact h

/-- From `s` to `t` HP has judged HOST_LINK to be at this level, and the Fault Unit has taken a change of it. -/
structure HostLinkJudged (live : Bool) (s t : State) : Prop where
  level : t.hp.hostLinkLive = live
  changed : t.hp.hostLinkLive ≠ s.hp.hostLinkLive → LiveTaken .hostLink t.hp.hostLinkLive s t
  stands : t.hp.hostLinkLive = s.hp.hostLinkLive → OnlyFaults [] s t
  others : OnlyFaults [.hostLink] s t

/-- The level of HOST_LINK (R156). -/
def hostLinkLevel (s : State) : Bool := decide (s.hp.part = .ready) && decide (s.hp.params.hostErrorLimit ≤ s.hp.badFrames)

theorem evaluateHostLink_same {s : State} (same : hostLinkLevel s = s.hp.hostLinkLive) : evaluateHostLink s = s := if_pos same

theorem evaluateHostLink_changes {s : State} (changes : hostLinkLevel s ≠ s.hp.hostLinkLive) :
    evaluateHostLink s = signalReporting .hostLink (.live (hostLinkLevel s))
      (s.setHp { s.hp with hostLinkLive := hostLinkLevel s }) := if_neg changes

theorem hostLinkJudged_evaluate (s : State) : HostLinkJudged (hostLinkLevel s) s (evaluateHostLink s) := by
  by_cases same : hostLinkLevel s = s.hp.hostLinkLive
  · rw [evaluateHostLink_same same]
    exact ⟨same.symm, fun differs => absurd rfl differs, fun _ => .refl _ _, .refl _ _⟩
  · have level : (evaluateHostLink s).hp.hostLinkLive = hostLinkLevel s := by
      rw [evaluateHostLink_changes same]
      exact signalReporting_only _ _ _ .hostLink (by simp)
    refine ⟨level, fun _ => ?_, fun stands => absurd (level.symm.trans stands) same, evaluateHostLink_onlyFaults s⟩
    rw [level, evaluateHostLink_changes same]
    exact liveTaken_signalReporting .hostLink _ (s.setHp _)

theorem noticesSent_evaluateHostLink (s : State) : NoticesSent [] s (evaluateHostLink s) := by
  by_cases same : hostLinkLevel s = s.hp.hostLinkLive
  · rw [evaluateHostLink_same same]
    exact noticesSent_self s
  · have marked : OnlyChanges [.hostLink] s (s.setHp { s.hp with hostLinkLive := hostLinkLevel s }) := by
      apply setHp_only <;> simp
    rw [evaluateHostLink_changes same]
    exact (noticesSent_take .hostLink _ _).from_earlier marked (marked.onlyFaults (by simp))

/-- Where ATTN stood as R145 says, it does so after HP has judged HOST_LINK. -/
theorem evaluateHostLink_attn {s : State} (attn : s.fu.attn = attnLevel s.hp.part s.fu.records) :
    (evaluateHostLink s).fu.attn = attnLevel s.hp.part (evaluateHostLink s).fu.records := by
  by_cases same : hostLinkLevel s = s.hp.hostLinkLive
  · rw [evaluateHostLink_same same, attn]
  · rw [evaluateHostLink_changes same]
    exact signalReporting_attn _ _ _

namespace HostLinkJudged

variable {live : Bool} {s t u : State} {ps : List Part}

/-- What comes before the judgement reaches neither HOST_LINK nor a record. -/
theorem from_earlier (h : HostLinkJudged live t u) (only : OnlyChanges ps s t) (faults : OnlyFaults [] s t)
    (n : Part.hostLink ∉ ps := by simp) : HostLinkJudged live s u := by
  have before : t.hp.hostLinkLive = s.hp.hostLinkLive := only .hostLink n
  refine ⟨h.level, fun changed => ?_, fun stands => faults.trans (h.stands (stands.trans before.symm)),
    (faults.mono (by simp)).trans h.others⟩
  have taken := h.changed (by rwa [before])
  unfold LiveTaken at taken ⊢
  rwa [faults .hostLink (by simp)] at taken

/-- What follows the judgement reaches neither HOST_LINK nor a record. -/
theorem to_later (h : HostLinkJudged live s t) (only : OnlyChanges ps t u) (n : Part.hostLink ∉ ps := by simp)
    (m : Part.fu ∉ ps := by simp) : HostLinkJudged live s u := by
  have after : u.hp.hostLinkLive = t.hp.hostLinkLive := only .hostLink n
  have faults : OnlyFaults [] t u := only.onlyFaults m
  refine ⟨after.trans h.level, fun changed => ?_, fun stands => (h.stands (after.symm.trans stands)).trans faults,
    h.others.trans (faults.mono (by simp))⟩
  rw [after] at changed ⊢
  have taken := h.changed changed
  unfold LiveTaken at taken ⊢
  rwa [faults .hostLink (by simp)]

end HostLinkJudged

end Sys2Proof.Machine
end

section
/-! The receive side of the host port: how bytes become frames, and frames judged good and bad (O8, O9). -/

namespace Sys2Proof.Machine

/-! ### The framer (R155) -/

/-- The framer holds these bytes of a frame, the last of them just now. -/
def inFrame (held : List Byte) (s : State) : State := s.setHp { s.hp with framer := some held, gapUs := 0 }

theorem hostByte_sof {s : State} (outside : s.hp.framer = none) : hostByte s 0xC5#8 = inFrame [] s := by
  simp [hostByte, outside, inFrame]

theorem hostByte_noSof {s : State} {b : Byte} (outside : s.hp.framer = none) (other : b ≠ 0xC5#8) : hostByte s b = s := by
  simp [hostByte, outside, other]

section
variable {s : State} {len b : Byte} {held : List Byte}

/-- A frame that is judged forgets what the framer held. -/
theorem badHostFrame_inFrame : badHostFrame (inFrame held s) = badHostFrame s := rfl

theorem goodHostFrame_inFrame (f : HostFrame) : goodHostFrame f (inFrame held s) = goodHostFrame f s := rfl

theorem hostByte_len_bad (bad : len.toNat < 2 ∨ 82 < len.toNat) : hostByte (inFrame [] s) len = badHostFrame s :=
  (if_pos bad : hostByte (inFrame [] s) len = badHostFrame (inFrame [] s))

theorem hostByte_len (low : 2 ≤ len.toNat) (high : len.toNat ≤ 82) : hostByte (inFrame [] s) len = inFrame [len] s :=
  if_neg (by omega)

theorem hostByte_joins (short : (len :: held ++ [b]).length < len.toNat + 3) :
    hostByte (inFrame (len :: held) s) b = inFrame (len :: held ++ [b]) s := if_pos short

theorem hostByte_ends (whole : (len :: held ++ [b]).length = len.toNat + 3) :
    hostByte (inFrame (len :: held) s) b
      = if hostFrameGood (len :: held ++ [b]) then goodHostFrame (readHostFrame (len :: held ++ [b])) s
        else badHostFrame s :=
  (if_neg (by omega) : hostByte (inFrame (len :: held) s) b
    = if hostFrameGood (len :: held ++ [b]) then goodHostFrame (readHostFrame (len :: held ++ [b])) (inFrame (len :: held) s)
      else badHostFrame (inFrame (len :: held) s))

/-- Bytes that do not complete the frame join it. -/
theorem foldl_hostByte_joins {bytes : List Byte} (short : (len :: held ++ bytes).length < len.toNat + 3) :
    bytes.foldl hostByte (inFrame (len :: held) s) = inFrame (len :: held ++ bytes) s := by
  induction bytes generalizing held with
  | nil => simp
  | cons b rest ih =>
    simp only [List.length_append, List.length_cons] at short
    rw [List.foldl_cons, hostByte_joins (by simp only [List.length_append, List.length_cons, List.length_nil]; omega),
      List.cons_append, ih (by simp only [List.length_append, List.length_cons, List.length_nil]; omega)]
    simp

/-- A whole frame is judged by its CRC at its last byte (R155). -/
theorem foldl_hostByte_frame {body : List Byte} (outside : s.hp.framer = none) (low : 2 ≤ len.toNat) (high : len.toNat ≤ 82)
    (whole : body.length = len.toNat + 2) :
    (0xC5#8 :: len :: body).foldl hostByte s
      = if hostFrameGood (len :: body) then goodHostFrame (readHostFrame (len :: body)) s else badHostFrame s := by
  obtain rfl | ⟨held, b, rfl⟩ := List.eq_nil_or_concat body
  · simp at whole
  · simp only [List.concat_eq_append, List.length_append, List.length_cons, List.length_nil] at whole ⊢
    rw [List.foldl_cons, List.foldl_cons, hostByte_sof outside, hostByte_len low high, List.foldl_append,
      foldl_hostByte_joins (by simp only [List.nil_append, List.cons_append, List.length_cons]; omega),
      List.cons_append, List.nil_append]
    exact hostByte_ends (by simp only [List.length_append, List.length_cons, List.length_nil]; omega)

end

/-! ### The bytes of a host frame (R154, R171, R174) -/

section
variable {f : HostFrame}

/-- A frame from LEN on, with these bytes in the place of its CRC. -/
theorem covered_append (f : HostFrame) (crc : List Byte) :
    f.covered ++ crc = BitVec.ofNat 8 (f.payload.length + 2) :: (f.kind :: f.tag :: f.payload ++ crc) := rfl

theorem covered_length (f : HostFrame) : f.covered.length = f.payload.length + 3 := by simp [HostFrame.covered, u8]

variable (fits : f.payload.length ≤ 80)
include fits

theorem len_toNat : (BitVec.ofNat 8 (f.payload.length + 2)).toNat = f.payload.length + 2 := by
  rw [BitVec.toNat_ofNat]
  omega

theorem readHostFrame_bytes (crc : List Byte) : readHostFrame (f.covered ++ crc) = f := by
  have len : u8At (f.covered ++ crc) 0 - 2 = f.payload.length := by
    show (BitVec.ofNat 8 (f.payload.length + 2)).toNat - 2 = _
    rw [len_toNat fits]
    rfl
  have payload : ((f.covered ++ crc).drop 3).take (u8At (f.covered ++ crc) 0 - 2) = f.payload := by
    rw [len]
    exact List.take_left
  unfold readHostFrame
  rw [payload]
  rfl

theorem hostFrameGood_bytes (code : Crc) :
    hostFrameGood (f.covered ++ u16 code.toNat) = decide (code = crc16 f.covered) := by
  have len : u8At (f.covered ++ u16 code.toNat) 0 + 1 = f.covered.length := by
    rw [covered_length]
    exact congrArg (· + 1) (len_toNat fits)
  have read : u16At (f.covered ++ u16 code.toNat) f.covered.length = code.toNat := by
    rw [u16At_of_drop (rest := []) (List.drop_left.trans (List.append_nil _).symm)]
    exact Nat.mod_eq_of_lt code.isLt
  simp only [hostFrameGood, len, List.take_left, read, BitVec.toNat_inj, eq_comm]

/-- The bytes of a frame, received out of frame, are judged by the code at their end. -/
theorem foldl_hostByte_bytes {s : State} (outside : s.hp.framer = none) (code : Crc) :
    ([0xC5#8] ++ f.covered ++ u16 code.toNat).foldl hostByte s
      = if code = crc16 f.covered then goodHostFrame f s else badHostFrame s := by
  have judged := foldl_hostByte_frame (s := s) (body := f.kind :: f.tag :: f.payload ++ u16 code.toNat) outside
    (by rw [len_toNat fits]; omega) (by rw [len_toNat fits]; omega) (by rw [len_toNat fits]; simp [u16])
  rw [← covered_append, hostFrameGood_bytes fits, readHostFrame_bytes fits] at judged
  simpa using judged

end

/-! ### Frames judged (R156, R157) -/

theorem queueRequest_requests (f : HostFrame) (s : State) :
    (queueRequest f s).hp.requestQueue
        = (if s.hp.requestQueue.length < 4 then s.hp.requestQueue ++ [f] else s.hp.requestQueue)
      ∧ (queueRequest f s).hp.dropped
        = (if s.hp.requestQueue.length < 4 then s.hp.dropped else min (s.hp.dropped + 1) 65535) := by
  unfold queueRequest Config.requestPlaces
  split <;> exact ⟨rfl, rfl⟩

/-- The framer is out of frame, and the bad-frame counter stands at `n`. -/
def leaveFrame (n : Nat) (s : State) : State := s.setHp { s.hp with framer := none, gapUs := 0, badFrames := n }

theorem leaveFrame_only (n : Nat) (s : State) : OnlyChanges [.framer] s (leaveFrame n s) := by
  apply setHp_only <;> simp

theorem hostLinkJudged_leaveFrame (n : Nat) (s : State) :
    HostLinkJudged (hostLinkLevel (leaveFrame n s)) s (evaluateHostLink (leaveFrame n s)) :=
  (hostLinkJudged_evaluate _).from_earlier (leaveFrame_only n s) ((leaveFrame_only n s).onlyFaults (by simp))

theorem noticesSent_leaveFrame (n : Nat) (s : State) : NoticesSent [] s (evaluateHostLink (leaveFrame n s)) :=
  (noticesSent_evaluateHostLink _).from_earlier (leaveFrame_only n s) ((leaveFrame_only n s).onlyFaults (by simp))

theorem evaluateHostLink_framer (s : State) : (evaluateHostLink s).hp.framer = s.hp.framer
    ∧ (evaluateHostLink s).hp.gapUs = s.hp.gapUs ∧ (evaluateHostLink s).hp.badFrames = s.hp.badFrames :=
  evaluateHostLink_only s .framer (by simp)

theorem goodHostFrame_eq (f : HostFrame) (s : State) :
    goodHostFrame f s = queueRequest f (evaluateHostLink (leaveFrame 0 s)) := rfl

theorem badHostFrame_eq (s : State) :
    badHostFrame s = evaluateHostLink (leaveFrame (min (s.hp.badFrames + 1) 65535) s) := rfl

theorem exec_hostFrameReceived {s : State} (clocked : Clocked s) (bytes : List Byte) :
    exec (.hostFrameReceived bytes) s = .next (bytes.foldl hostByte s) :=
  (inOperation_operating clocked.1).trans (by rw [hostBytes, if_pos clocked.2])

/-- Settles O8: the bytes are read as the frame (`foldl_hostByte_bytes`), HOST_LINK is judged with the counter at 0, and the frame
is queued (`queueRequest_requests`). -/
theorem goodHostFrameIsQueued : Obligations.GoodHostFrameIsQueued := by
  intro s f clocked outside fits
  have good : exec (.hostFrameReceived f.bytes) s = .next (goodHostFrame f s) := by
    rw [exec_hostFrameReceived clocked, HostFrame.bytes, foldl_hostByte_bytes fits outside, if_pos rfl]
  have queued := queueRequest_only f (evaluateHostLink (leaveFrame 0 s))
  have judged := (hostLinkJudged_leaveFrame 0 s).to_later queued
  have notices := (noticesSent_leaveFrame 0 s).quiet queued (.of_fu (queued.fu_eq (by simp)))
  have line := evaluateHostLink_only (leaveFrame 0 s)
  obtain ⟨requests, dropped⟩ := queueRequest_requests f (evaluateHostLink (leaveFrame 0 s))
  rw [line.requestQueue_eq (by simp)] at requests dropped
  rw [line.dropped_eq (by simp)] at dropped
  obtain ⟨framer, -, bad⟩ := queued .framer (by simp)
  obtain ⟨framer', -, bad'⟩ := evaluateHostLink_framer (leaveFrame 0 s)
  refine ⟨_, good, requests, dropped, framer.trans framer', bad.trans bad', ?_, judged.changed, judged.stands, judged.others,
    notices, (goodHostFrame_only f s).mono (by simp)⟩
  exact judged.level.trans (congrArg (decide (s.hp.part = .ready) && ·) (decide_eq_decide.2 Nat.le_zero))

/-- A frame judged bad: it is counted, and HOST_LINK is judged (R155, R156). -/
theorem badHostFrame_effect (s : State) :
    (badHostFrame s).hp.framer = none ∧ (badHostFrame s).hp.badFrames = min (s.hp.badFrames + 1) 65535
      ∧ HostLinkJudged (decide (s.hp.part = .ready)
          && decide (s.hp.params.hostErrorLimit ≤ (badHostFrame s).hp.badFrames)) s (badHostFrame s)
      ∧ NoticesSent [] s (badHostFrame s) := by
  obtain ⟨framer, -, bad⟩ := evaluateHostLink_framer (leaveFrame (min (s.hp.badFrames + 1) 65535) s)
  rw [badHostFrame_eq, bad]
  exact ⟨framer, rfl, hostLinkJudged_leaveFrame _ s, noticesSent_leaveFrame _ s⟩

/-- Settles O9: each of the three ways ends in `badHostFrame`, and out of frame neither a byte nor a gap is judged. -/
theorem badHostFrameIsCounted : Obligations.BadHostFrameIsCounted := by
  refine ⟨fun s c clocked ways => ?_, fun s b outside other => inOperation_idle ?_, fun s outside => inOperation_idle ?_⟩
  · have answers : exec c s = .next (badHostFrame s) := by
      rcases ways with ⟨f, code, rfl, outside, fits, other⟩ | ⟨len, rfl, outside, bad⟩ | ⟨rfl, inside⟩
      · rw [exec_hostFrameReceived clocked, foldl_hostByte_bytes fits outside, if_neg other]
      · rw [exec_hostFrameReceived clocked, List.foldl_cons, List.foldl_cons, List.foldl_nil, hostByte_sof outside,
          hostByte_len_bad bad]
      · refine (inOperation_operating clocked.1).trans ?_
        rw [hostGap, clocked.2, inside]
        rfl
    obtain ⟨framer, counted, judged, notices⟩ := badHostFrame_effect s
    exact ⟨_, answers, framer, counted, judged.level, judged.changed, judged.stands, judged.others, notices,
      badHostFrame_only s⟩
  · simp [hostBytes, hostByte_noSof outside other]
  · simp [hostGap, outside]

end Sys2Proof.Machine
end

section
/-! The requests about parameters, and SYNC (O15 to O17). -/

namespace Sys2Proof.Machine

/-! ### The parameters by number (R164) -/

section
variable {p : Params} {n : Nat}

theorem value_of_mem {v : Nat}
    (h : (n, v) ∈ [(0x01, p.splitPeriodUs), (0x02, p.linkTimeoutMs), (0x03, p.demandTimeoutMs), (0x04, p.reportInterval),
      (0x05, p.hostErrorLimit), (0x06, p.armWindowMs), (0x07, p.noticesEnable), (0x08, p.linkRecoverFrames),
      (0x10, 0x00D2), (0x11, 1)]) : p.value n = some v := by
  simp only [List.mem_cons, Prod.mk.injEq, List.not_mem_nil, or_false] at h
  rcases h with h | h | h | h | h | h | h | h | h | h <;> obtain ⟨rfl, rfl⟩ := h <;> rfl

theorem value_unknown (h : n ∉ [0x01, 0x02, 0x03, 0x04, 0x05, 0x06, 0x07, 0x08, 0x10, 0x11]) : p.value n = none := by
  unfold Params.value
  split
  case h_11 => rfl
  all_goals exact absurd (by simp) h

/-- In STANDBY the writable parameters read 0 (R153). -/
theorem value_reset (low : 1 ≤ n) (high : n ≤ 8) : Params.reset.value n = some 0 :=
  match n, low, high with
  | 1, _, _ | 2, _, _ | 3, _, _ | 4, _, _ | 5, _, _ | 6, _, _ | 7, _, _ | 8, _, _ => rfl
  | n + 9, _, high => absurd high (by omega)

/-- A parameter that PARAM SET writes: the value it holds, whether a new one is in its range, and what the write of it gives
(R164). -/
structure WritableParam (p : Params) (n v held : Nat) (ok : Bool) (p' : Params) : Prop where
  number : 3 ≤ n ∧ n ≤ 7
  value : p.value n = some held
  range : paramInRange n v = ok
  write : p.write n v = p'
  written : p'.value n = some v

theorem writable_of_mem {v held : Nat} {ok : Bool} {p' : Params}
    (h : (n, held, ok, p') ∈
      [(0x03, p.demandTimeoutMs, decide (10 ≤ v ∧ v ≤ 2000), { p with demandTimeoutMs := v }),
       (0x04, p.reportInterval, decide (v ≤ 1000), { p with reportInterval := v }),
       (0x05, p.hostErrorLimit, decide (v = 2 ∨ v = 4 ∨ v = 8), { p with hostErrorLimit := v }),
       (0x06, p.armWindowMs, decide (10 ≤ v ∧ v ≤ 500), { p with armWindowMs := v }),
       (0x07, p.noticesEnable, decide (v ≤ 1), { p with noticesEnable := v })]) : WritableParam p n v held ok p' := by
  simp only [List.mem_cons, Prod.mk.injEq, List.not_mem_nil, or_false] at h
  rcases h with h | h | h | h | h <;> obtain ⟨rfl, rfl, rfl, rfl⟩ := h <;>
    exact ⟨by decide, rfl, by simp [paramInRange, Bool.or_assoc], rfl, rfl⟩

end

/-! ### PARAM GET (R165) -/

theorem ownerParamGet_known {f : HostFrame} {s : State} {v : Nat} (known : s.hp.params.value (u8At f.payload 0) = some v) :
    ownerParamGet f s = reply f .ok (u8 (u8At f.payload 0) ++ u16 v) s := by
  simp [ownerParamGet, paramFields, known]

theorem ownerParamGet_unknown {f : HostFrame} {s : State} (unknown : s.hp.params.value (u8At f.payload 0) = none) :
    ownerParamGet f s = reply f .paramUnknown (u8 (u8At f.payload 0) ++ u16 0) s := by
  simp [ownerParamGet, paramFields, unknown]

/-- Settles O15: the number has a value (`value_of_mem`, `value_reset`) or has none (`value_unknown`). -/
theorem paramGetReply : Obligations.ParamGetReply := by
  rintro s f n h rfl
  have known {v : Nat} (value : s.hp.params.value (u8At f.payload 0) = some v) :
      Answered f .ok (u8 (u8At f.payload 0) ++ u16 v) s (ownerParamGet f (popRequest s)) := by
    rw [ownerParamGet_known (s := popRequest s) value]
    exact answered_reply_popRequest _ _ _ _
  refine ⟨_, inOperation_handed h ownerParamGet, reply_popRequest_only _ _ _ _, fun v among => known (value_of_mem among),
    fun other => ?_, fun standby part low high => known ?_⟩
  · rw [ownerParamGet_unknown (s := popRequest s) (value_unknown other)]
    exact answered_reply_popRequest _ _ _ _
  · rw [((standbyHoldsResetValues_iff s).1 standby part).params]
    exact value_reset low high

/-! ### PARAM SET (R164) -/

section
variable {p : Params} {n v : Nat}

theorem paramSetRefusal_unknown (unknown : p.value n = none) : paramSetRefusal p n v = some .paramUnknown := if_pos unknown

theorem paramSetRefusal_readOnly (number : n = 0x10 ∨ n = 0x11) : paramSetRefusal p n v = some .readOnly := by
  rcases number with rfl | rfl <;> rfl

theorem paramSetRefusal_state (number : n = 0x01 ∨ n = 0x02 ∨ n = 0x08) : paramSetRefusal p n v = some .state := by
  rcases number with rfl | rfl | rfl <;> rfl

theorem paramSetRefusal_writable {held : Nat} {ok : Bool} {p' : Params} (w : WritableParam p n v held ok p') :
    paramSetRefusal p n v = if ok = false then some .range else none := by
  obtain ⟨low, high⟩ := w.number
  rw [paramSetRefusal, w.value, w.range, if_neg (by simp), if_neg (by omega), if_neg (by omega)]

end

/-- The parameter has taken the value; the others stand. -/
theorem writeParam_params (n v : Nat) (s : State) : (writeParam n v s).hp.params = s.hp.params.write n v := by
  unfold writeParam
  dsimp only
  split
  · exact (evaluateHostLink_only _).params_eq (by simp)
  · rfl

section
variable {f : HostFrame} {s : State} {n v held : Nat} (number : n = u8At f.payload 0) (value : v = u16At f.payload 1)
include number value

theorem ownerParamSet_refused {r : ResultCode} (refusal : paramSetRefusal s.hp.params n v = some r)
    (stands : (s.hp.params.value n).getD 0 = held) : ownerParamSet f s = reply f r (u8 n ++ u16 held) s := by
  subst number value stands
  simp only [ownerParamSet, refusal, paramFields]

theorem ownerParamSet_taken (taken : paramSetRefusal s.hp.params n v = none)
    (written : (s.hp.params.write n v).value n = some v) :
    ownerParamSet f s = reply f .ok (u8 n ++ u16 v) (writeParam n v s) := by
  subst number value
  simp only [ownerParamSet, taken, paramFields, writeParam_params, written, Option.getD_some]

end

theorem setParams_only (s : State) (p : Params) : OnlyChanges [.params] s (s.setHp { s.hp with params := p }) := by
  apply setHp_only <;> simp

/-- The reply to a request whose effect has offered the notices that are due. -/
theorem answeredAfterNotices_reply {s t : State} (notices : NoticesSent [] (popRequest s) t)
    (queue : t.hp.requestQueue = s.hp.requestQueue.tail) (f : HostFrame) (r : ResultCode) (p : List Byte) :
    AnsweredAfterNotices f r p s (reply f r p t) :=
  ⟨((reply_only f r p t).requestQueue_eq (by simp)).trans queue,
    (notices.from_earlier (popRequest_only s) ((popRequest_only s).onlyFaults (by simp))).reply f r p⟩

/-- A parameter other than HOST_ERROR_LIMIT takes a value, and nothing else follows. -/
theorem writeParam_other {n v : Nat} (other : n ≠ 0x05) (s : State) :
    writeParam n v s = s.setHp { s.hp with params := s.hp.params.write n v } := if_neg other

/-- A write of HOST_ERROR_LIMIT judges HOST_LINK (R156). -/
theorem writeParam_hostErrorLimit (v : Nat) (s : State) :
    writeParam 0x05 v s = evaluateHostLink (s.setHp { s.hp with params := { s.hp.params with hostErrorLimit := v } }) := rfl

theorem noticesSent_writeParam (n v : Nat) (s : State) : NoticesSent [] s (writeParam n v s) := by
  have written := setParams_only s (s.hp.params.write n v)
  unfold writeParam
  dsimp only
  split
  · exact (noticesSent_evaluateHostLink _).from_earlier written (written.onlyFaults (by simp))
  · exact (noticesSent_self _).from_earlier written (written.onlyFaults (by simp))

/-- What a write of HOST_ERROR_LIMIT, in READY, leaves of HOST_LINK (R156). -/
theorem hostLinkJudged_writeParam {s : State} (ready : s.hp.part = .ready) (v : Nat) :
    HostLinkJudged (decide (v ≤ s.hp.badFrames)) s (writeParam 0x05 v s) := by
  have written := setParams_only s { s.hp.params with hostErrorLimit := v }
  have level : hostLinkLevel (s.setHp { s.hp with params := { s.hp.params with hostErrorLimit := v } })
      = decide (v ≤ s.hp.badFrames) := by
    simp [hostLinkLevel, ready]
  rw [writeParam_hostErrorLimit, ← level]
  exact (hostLinkJudged_evaluate _).from_earlier written (written.onlyFaults (by simp))

/-- Settles O16: the refusals in order (`paramSetRefusal_unknown` to `paramSetRefusal_writable`), and where none applies the write
(`writable_of_mem`), which for HOST_ERROR_LIMIT judges HOST_LINK (`hostLinkJudged_writeParam`). -/
theorem paramSetWrites : Obligations.ParamSetWrites := by
  intro s f n v h number value
  have ready : s.hp.part = .ready := h.part_ready rfl
  have refused {r : ResultCode} {held : Nat} (refusal : paramSetRefusal s.hp.params n v = some r)
      (stands : (s.hp.params.value n).getD 0 = held) :
      Answered f r (u8 n ++ u16 held) s (ownerParamSet f (popRequest s))
        ∧ OnlyChanges [.tx, .requests] s (ownerParamSet f (popRequest s)) := by
    rw [ownerParamSet_refused (s := popRequest s) number value refusal stands]
    exact ⟨answered_reply_popRequest _ _ _ _, reply_popRequest_only _ _ _ _⟩
  refine ⟨_, inOperation_handed h ownerParamSet, fun other => ?_, fun partId => ?_, fun silicon => ?_, fun held among => ?_,
    fun held ok p' among => ?_⟩
  · have unknown := value_unknown (p := s.hp.params) other
    exact refused (paramSetRefusal_unknown unknown) (by rw [unknown]; rfl)
  · exact refused (paramSetRefusal_readOnly (.inl partId)) (by rw [partId]; rfl)
  · exact refused (paramSetRefusal_readOnly (.inr silicon)) (by rw [silicon]; rfl)
  · simp only [List.mem_cons, Prod.mk.injEq, List.not_mem_nil, or_false] at among
    rcases among with ⟨period, rfl⟩ | ⟨timeout, rfl⟩ | ⟨recover, rfl⟩
    · exact refused (paramSetRefusal_state (.inl period)) (by rw [period]; rfl)
    · exact refused (paramSetRefusal_state (.inr (.inl timeout))) (by rw [timeout]; rfl)
    · exact refused (paramSetRefusal_state (.inr (.inr recover))) (by rw [recover]; rfl)
  · have w := writable_of_mem among
    have refusal := paramSetRefusal_writable w
    refine ⟨fun out => refused (refusal.trans (if_pos out)) (by rw [w.value]; rfl), fun inRange => ?_⟩
    have taken : ownerParamSet f (popRequest s) = reply f .ok (u8 n ++ u16 v) (writeParam n v (popRequest s)) :=
      ownerParamSet_taken number value (refusal.trans (if_neg (by rw [inRange]; decide)))
        ((congrArg (Params.value · n) w.write).trans w.written)
    have popped := popRequest_only s
    have replied := reply_only f .ok (u8 n ++ u16 v) (writeParam n v (popRequest s))
    have wrote := writeParam_only n v (popRequest s)
    rw [taken]
    refine ⟨?_, answeredAfterNotices_reply (noticesSent_writeParam n v _) (wrote.requestQueue_eq (by simp)) _ _ _,
      fun other => ?_, ?_⟩
    · rw [replied.params_eq (by simp), writeParam_params]
      exact w.write
    · rw [writeParam_other other] at replied ⊢
      exact (popped.mono (by simp)).trans (((setParams_only (popRequest s) _).mono (by simp)).trans (replied.mono (by simp)))
    · rintro rfl
      have judged := ((hostLinkJudged_writeParam (s := popRequest s) ready v).from_earlier popped
        (popped.onlyFaults (by simp))).to_later replied
      exact ⟨judged.level, judged.changed, judged.stands, judged.others,
        (popped.mono (by simp)).trans ((wrote.mono (by simp)).trans (replied.mono (by simp)))⟩

/-! ### SYNC (R166) -/

theorem ownerSync_busy {f : HostFrame} {s : State} (pending : s.hp.pendingSync.isSome = true) :
    ownerSync f s = reply f .busy [0#8, 0#8, 0#8, 0#8] s := by
  obtain ⟨y, pending⟩ := Option.isSome_iff_exists.1 pending
  simp only [ownerSync, pending]
  rfl

theorem ownerSync_taken {f : HostFrame} {s : State} (none : s.hp.pendingSync = none) :
    ownerSync f s = s.setHp { s.hp with pendingSync := some ⟨f.tag, (s.se.periodNumber + 1) % 2 ^ 32⟩ } := by
  have taken : ownerSync f s = s.setHp { s.hp with pendingSync := some ⟨f.tag, (s.se.periodNumber + 1) % 4294967296⟩ } := by
    simp only [ownerSync, none]
  exact taken

/-- Settles O17: one equation of `ownerSync` for each result. -/
theorem syncBecomesPending : Obligations.SyncBecomesPending := by
  intro s f h
  refine ⟨_, inOperation_handed h ownerSync, fun pending => ?_, fun none => ?_⟩
  · rw [ownerSync_busy (s := popRequest s) pending]
    exact ⟨answered_reply_popRequest _ _ _ _, reply_popRequest_only _ _ _ _⟩
  · rw [ownerSync_taken (s := popRequest s) none]
    refine ⟨rfl, rfl, ((popRequest_only s).mono (by simp)).trans ?_⟩
    apply setHp_only <;> simp

end Sys2Proof.Machine
end

section
/-! STATUS: its bytes item by item, and the events between the looks (O14). -/

namespace Sys2Proof.Machine

/-! ### Codes that fit a byte (R170) -/

theorem PartState.code_lt (v : PartState) : v.code < 256 := by cases v <;> decide

theorem ResetCause.code_lt (v : ResetCause) : v.code < 256 := by cases v <;> decide

theorem OcState.code_lt (v : OcState) : v.code < 256 := by cases v <;> decide

theorem ArmOutcome.code_lt (v : ArmOutcome) : v.code < 256 := by cases v <;> decide

theorem TripCause.code_lt (v : TripCause) : v.code < 256 := by
  cases v with
  | fault c => cases c <;> decide
  | host => decide

/-! ### A set of faults as a number (R170) -/

/-- The number of a list of bits, the lowest first. -/
def bitsValue : List Bool → Nat
  | [] => 0
  | b :: rest => b.toNat + 2 * bitsValue rest

theorem bitsValue_lt (bits : List Bool) : bitsValue bits < 2 ^ bits.length := by
  induction bits with
  | nil => exact Nat.one_pos
  | cons b rest ih =>
    have low := b.toNat_lt
    rw [bitsValue, List.length_cons, Nat.pow_succ]
    omega

theorem bitsValue_testBit (bits : List Bool) (i : Nat) : (bitsValue bits).testBit i = bits.getD i false := by
  induction bits generalizing i with
  | nil => exact Nat.zero_testBit i
  | cons b rest ih =>
    cases i with
    | zero =>
      rw [Nat.testBit_zero, bitsValue]
      cases b
      · exact decide_eq_false (by simp only [Bool.toNat_false]; omega)
      · exact decide_eq_true (by simp only [Bool.toNat_true]; omega)
    | succ i =>
      have half : bitsValue (b :: rest) / 2 = bitsValue rest := by
        have low := b.toNat_lt
        rw [bitsValue]
        omega
      rw [Nat.testBit_succ, half, ih]
      rfl

/-- A set of faults is the number of its fifteen bits, in order of code. -/
theorem faultSet_eq_bitsValue (field : FaultRecord → Bool) (r : FaultRecords) :
    faultSet field r = bitsValue (faultCodes.map fun c => field (r.get c)) := by
  have weight (b : Bool) (n : Nat) : (if b = true then n else 0) = n * b.toNat := by
    cases b
    · exact (Nat.mul_zero n).symm
    · exact (Nat.mul_one n).symm
  simp only [faultSet, faultCodes, weight, List.foldl_cons, List.foldl_nil, FaultCode.code, List.map_cons, List.map_nil, bitsValue,
    Nat.reduceSub, Nat.reducePow]
  omega

theorem faultSet_lt (field : FaultRecord → Bool) (r : FaultRecords) : faultSet field r < 2 ^ 15 := by
  rw [faultSet_eq_bitsValue]
  exact bitsValue_lt _

/-- Bit n − 1 of the set is fault code n. -/
theorem faultSet_testBit (field : FaultRecord → Bool) (r : FaultRecords) (c : FaultCode) :
    (faultSet field r).testBit (c.code - 1) = field (r.get c) := by
  rw [faultSet_eq_bitsValue, bitsValue_testBit]
  cases c <;> rfl

/-! ### The reply (R169, R172) -/

theorem tripFields_eq (o : Option TripRecord) :
    tripFields o = u8 ((o.map fun r => r.cause.code).getD 0) ++ u32 ((o.map TripRecord.period).getD 0) := by
  cases o <;> rfl

/-- The bytes of a STATUS reply, each item as one look finds it. -/
def statusPayload (look : StatusItem → State) : List Byte :=
  u8 ResultCode.ok.code ++ statusItems.flatMap fun i => lookAt i (look i)

theorem statusShows_payload (look : StatusItem → State) : StatusShows look (statusPayload look) := by
  obtain ⟨trip, htrip⟩ : ∃ o, o = (look .tripRecord).oc.tripRecord := ⟨_, rfl⟩
  have bytes : statusPayload look
      = u8 0 ++ u8 (look .partState).hp.part.code ++ u8 (look .resetCause).hp.cause.code ++ u8 (look .ocState).oc.state.code
        ++ u8 (look .armOutcome).oc.lastOutcome.code
        ++ (u8 ((trip.map fun r => r.cause.code).getD 0) ++ u32 ((trip.map TripRecord.period).getD 0))
        ++ u8 (look .activeSlot).pt.active.val ++ u8 (look .blendRemaining).pt.remaining
        ++ u8 (look .frontLink).link.front.state.code ++ u8 (look .rearLink).link.rear.state.code
        ++ u16 (faultSet FaultRecord.test (look .testSet).fu.records)
        ++ u16 (((look .demandAge).di.current.map CurrentDemand.age).getD 0) ++ u16 (look .acceptedCount).di.acceptedCount
        ++ u32 (look .periodNumber).se.periodNumber ++ u16 (look .badFrames).hp.badFrames ++ u16 (look .dropped).hp.dropped
        ++ u16 (look .overwrites).di.overwrites ++ u16 (look .duplicates).di.duplicates
        ++ u16 (look .reportSkips).hp.reportSkips ++ u16 (look .noticeSkips).hp.noticeSkips := by
    rw [← tripFields_eq, htrip]
    simp only [statusPayload, statusItems, lookAt, List.flatMap_cons, List.flatMap_nil, List.append_nil, List.append_assoc]
    rfl
  have code {n v : Nat} (read : n = v % 256) (fits : v < 256) : n = v := read.trans (Nat.mod_eq_of_lt fits)
  rw [bytes]
  simp only [List.append_assoc]
  refine ⟨rfl, rfl, code (u8At_of_drop rfl) (PartState.code_lt _), code (u8At_of_drop rfl) (ResetCause.code_lt _),
    code (u8At_of_drop rfl) (OcState.code_lt _), code (u8At_of_drop rfl) (ArmOutcome.code_lt _), fun none => ?_,
    fun r record => ?_, code (u8At_of_drop rfl) (by omega), u8At_of_drop rfl, code (u8At_of_drop rfl) (LinkState.code_lt _),
    code (u8At_of_drop rfl) (LinkState.code_lt _), fun c => ?_, fun none => ?_, fun r record => ?_, u16At_of_drop rfl,
    u32At_of_drop rfl, u16At_of_drop rfl, u16At_of_drop rfl, u16At_of_drop rfl, u16At_of_drop rfl, u16At_of_drop rfl,
    u16At_of_drop rfl⟩
  · rw [none] at htrip
    subst htrip
    exact ⟨u8At_of_drop (n := 0) rfl, u32At_of_drop (n := 0) rfl⟩
  · rw [record] at htrip
    subst htrip
    exact ⟨code (u8At_of_drop rfl) (TripCause.code_lt _), u32At_of_drop rfl⟩
  · have fits := faultSet_lt FaultRecord.test (look .testSet).fu.records
    refine (congrArg (Nat.testBit · (c.code - 1)) ((u16At_of_drop rfl).trans (Nat.mod_eq_of_lt ?_))).trans
      (faultSet_testBit FaultRecord.test (look .testSet).fu.records c)
    omega
  · rw [none]
    exact u16At_of_drop (n := 0) rfl
  · rw [record]
    exact u16At_of_drop rfl

/-- The take of the request is seen in no item. -/
theorem statusPayload_popRequest (s : State) : statusPayload (fun _ => popRequest s) = statusPayload fun _ => s := rfl

/-- An owner's event does what its command does. -/
theorem exec_eventCommand (e : OwnerEvent) (s : State) : exec (eventCommand e) s = .next (takeOwnerEvent e s) := by
  cases e <;> rfl

/-- Settles O14: the payload is `statusPayload` of the looks, read back by `statusShows_payload`; an event between the looks is its
command (`exec_eventCommand`). -/
theorem statusReply : Obligations.StatusReply := by
  refine ⟨fun s w f during h hw => ?_, fun s i => ⟨rfl, rfl⟩,
    fun s before e rest => ⟨_, exec_eventCommand e s, afterLooks_cons before e rest s, fun i => lookedAt_cons i before e rest s⟩⟩
  have taken : w = popRequest s := hw
  subst taken
  have answers := inOperation_handed h (ownerStatus during)
  have replied : OnlyChanges [.tx] (afterLooks during (popRequest s)) (ownerStatus during f (popRequest s)) :=
    reply_only f .ok _ _
  have kind : f.kind + 0x80#8 = 0x83#8 := by
    obtain ⟨-, -, -, -, kind, -⟩ := h
    rw [kind]
    rfl
  have out : outbox (ownerStatus during f (popRequest s)) = outbox (afterLooks during (popRequest s))
      ++ [⟨0x83#8, f.tag, statusPayload fun i => lookedAt i during (popRequest s)⟩] := by
    rw [← kind]
    exact outbox_reply _ _ _ _
  refine ⟨_, _, answers, ?_, out, replied, statusShows_payload _, ?_⟩
  · rw [replied.requestQueue_eq (by simp), (afterLooks_only during _).requestQueue_eq
      (by simp [ownerEventParts, rxParts, periodParts, tripParts])]
    rfl
  · rintro rfl
    exact ⟨out, (popRequest_only s).seq replied (by simp) (by simp),
      statusPayload_popRequest s ▸ statusShows_payload fun _ => s⟩

end Sys2Proof.Machine
end

section
/-! SETUP: its check of the eight values, and READY entry in every block (O13). -/

namespace Sys2Proof.Machine

/-! ### The first parameter out of range (R162) -/

section
variable {p : Params}

theorem Params.firstBad_eq_some {n : Nat} (low : 1 ≤ n) (high : n ≤ 8) (bad : paramInRange n ((p.value n).getD 0) = false)
    (first : ∀ m, 1 ≤ m → m < n → paramInRange m ((p.value m).getD 0) = true) : p.firstBad = some n := by
  refine (List.find?_range'_eq_some (s := 1) (n := 8)).2 ⟨by simp [bad], List.mem_range'_1.2 ⟨low, by omega⟩, ?_⟩
  exact fun m lower below => by simp [first m lower below]

theorem Params.firstBad_eq_none (good : ∀ n, 1 ≤ n → n ≤ 8 → paramInRange n ((p.value n).getD 0) = true) : p.firstBad = none := by
  refine (List.find?_range'_eq_none (s := 1) (n := 8)).2 fun n low high => ?_
  simp [good n low (by omega)]

end

/-- The part is in READY with these parameters; no block has taken READY entry (R162, R163). -/
def setupTaken (p : Params) (s : State) : State := s.setHp { s.hp with params := p, part := .ready }

theorem setupTaken_only (p : Params) (s : State) : OnlyChanges [.params, .part] s (setupTaken p s) := by
  apply setHp_only <;> simp

theorem ownerSetup_refused {f : HostFrame} {n : Nat} (bad : (readSetup f.payload).firstBad = some n) (s : State) :
    ownerSetup f s = reply f .range (u8 n) s := by
  simp only [ownerSetup, bad]

theorem ownerSetup_taken {f : HostFrame} (good : (readSetup f.payload).firstBad = none) (s : State) :
    ownerSetup f s = reply f .ok [0#8] (readyEntry (setupTaken (readSetup f.payload) s)) := by
  simp only [ownerSetup, good]
  rfl

/-! ### READY entry in the blocks (R1, R27, R61, R63, R85, R98, R120, R127) -/

theorem blocksReadyEntry_only (s : State) :
    OnlyChanges [.se, .di, .slots, .pool, .pt, .sm .front, .sm .rear, .tm .front, .tm .rear, .out, .oc] s
      (blocksReadyEntry s) := by
  intro p n
  cases p with
  | se | di | slots | pool | pt | out | oc => exact absurd (by simp) n
  | sm x | tm x => cases x <;> exact absurd (by simp) n
  | _ => simp [Part.same, blocksReadyEntry]

/-- A link that has taken READY entry (R104, R118). -/
def startingLink (timeoutMs : Nat) : AxleLink := { AxleLink.reset with state := .starting, timer := some timeoutMs }

/-- READY entry of a link: it starts, and its LINK entries are posted. -/
theorem linkReadyEntry_eq (x : Axle) (s : State) :
    linkReadyEntry x s = setSlot .link x .regen (some ⟨0, s.se.periodNumber⟩)
      (setSlot .link x .drive (some ⟨0, s.se.periodNumber⟩) (s.setLink x (startingLink s.hp.params.linkTimeoutMs))) := by
  cases x <;> rfl

theorem linkReadyEntry_only (x : Axle) (s : State) : OnlyChanges (.slots :: linkParts x) s (linkReadyEntry x s) := by
  have started : OnlyChanges (.slots :: linkParts x) s (s.setLink x (startingLink s.hp.params.linkTimeoutMs)) := by
    apply setLink_only <;> simp [linkParts]
  rw [linkReadyEntry_eq]
  exact (started.trans ((setSlot_only _ _ _ _ _).mono (by simp))).trans ((setSlot_only _ _ _ _ _).mono (by simp))

theorem linkReadyEntry_link (x z : Axle) (s : State) :
    (linkReadyEntry x s).link.get z = if z = x then startingLink s.hp.params.linkTimeoutMs else s.link.get z := by
  rw [linkReadyEntry_eq]
  exact ByAxle.get_set _ _ _ _

theorem linkReadyEntry_slots (x z : Axle) (src : InternalSource) (d : Direction) (s : State) :
    (linkReadyEntry x s).ct.slots.get src z d
      = if src = .link ∧ z = x then some ⟨0, s.se.periodNumber⟩ else s.ct.slots.get src z d := by
  rw [linkReadyEntry_eq]
  simp only [setSlot, State.setCt_ct, State.setLink_ct, InternalSlots.get_set]
  cases d <;> simp

/-- Every block but Output Control's check has taken READY entry (R163). -/
def blocksEntered (s : State) : State := linkReadyEntry .rear (linkReadyEntry .front (blocksReadyEntry s))

/-- The parts both links are made of. -/
def bothLinks : List Part := linkParts .front ++ linkParts .rear

theorem blocksEntered_only (s : State) :
    OnlyChanges (.slots :: bothLinks) (blocksReadyEntry s) (blocksEntered s) :=
  (linkReadyEntry_only .front _).seq (linkReadyEntry_only .rear _) (by decide) (by decide)

theorem blocksEntered_link (s : State) (x : Axle) :
    (blocksEntered s).link.get x = startingLink s.hp.params.linkTimeoutMs := by
  have params : (linkReadyEntry .front (blocksReadyEntry s)).hp.params = s.hp.params :=
    (linkReadyEntry_only .front _).params_eq (by decide)
  rw [blocksEntered, linkReadyEntry_link, linkReadyEntry_link, params]
  cases x <;> rfl

/-- The Cap Table holds the LINK entries alone (R61, R118). -/
theorem blocksEntered_slots (s : State) (src : InternalSource) (x : Axle) (d : Direction) :
    (blocksEntered s).ct.slots.get src x d = if src = .link then some ⟨0, 0⟩ else none := by
  have period : (linkReadyEntry .front (blocksReadyEntry s)).se.periodNumber = 0 := by
    rw [(linkReadyEntry_only .front _).se_eq (by decide)]
    rfl
  have empty : (blocksReadyEntry s).ct.slots.get src x d = none := slots_reset src x d
  rw [blocksEntered, linkReadyEntry_slots, linkReadyEntry_slots, period, empty]
  cases x <;> cases src <;> rfl

/-! ### Output Control's check (R127, R136) -/

/-- A trip out of DISARMED reaches Output Control and the transmit lines alone. -/
theorem trip_disarmed_only {s : State} (disarmed : s.oc.state = .disarmed) (cause : TripCause) :
    OnlyChanges [.oc, .line .front, .line .rear] s (trip cause s) := by
  unfold trip
  simp only [disarmed]
  refine .ite (fun _ => .refl _ _) fun _ => ?_
  exact (((setOc_only s _).mono (by simp)).trans ((torqueOffBreak_only .front _).mono (by simp))).trans
    ((torqueOffBreak_only .rear _).mono (by simp))

theorem readyCheck_only {s : State} (disarmed : s.oc.state = .disarmed) :
    OnlyChanges [.oc, .line .front, .line .rear] s (readyCheck s) := by
  unfold readyCheck
  split
  · exact trip_disarmed_only disarmed _
  · exact .refl _ _

theorem readyCheck_absent {s : State} (absent : ∀ c : FaultCode, c.forcing = true → (faultRecord c s).present = false) :
    readyCheck s = s := by
  simp only [readyCheck, (lowestForcing_eq_none s).2 absent]

theorem readyCheck_present {s : State} {c : FaultCode} (forcing : c.forcing = true) (present : (faultRecord c s).present = true)
    (lowest : ∀ d : FaultCode, d.forcing = true → d.code < c.code → (faultRecord d s).present = false) :
    readyCheck s = trip (.fault c) s := by
  simp only [readyCheck, lowestForcing_eq_some forcing present lowest]

/-! ### READY entry as a whole (R163) -/

theorem blocksEntered_oc (s : State) : (blocksEntered s).oc = OutputControl.reset :=
  (blocksEntered_only s).oc_eq (by decide)

/-- No record is reached before Output Control's check. -/
theorem blocksEntered_onlyFaults (s : State) : OnlyFaults [] s (blocksEntered s) :=
  ((blocksReadyEntry_only s).onlyFaults (by simp)).trans ((blocksEntered_only s).onlyFaults (by decide))

theorem entryCheck_only (s : State) :
    OnlyChanges [.oc, .line .front, .line .rear] (blocksEntered s) (readyCheck (blocksEntered s)) :=
  readyCheck_only (by rw [blocksEntered_oc]; rfl)

theorem updateAttn_onlyFaults (s : State) : OnlyFaults [] s (updateAttn s) := fun _ _ => rfl

theorem updateAttn_attn (s : State) : (updateAttn s).fu.attn = attnLevel (updateAttn s).hp.part (updateAttn s).fu.records := rfl

/-- READY entry up to the judgement of HOST_LINK. -/
def entryChecked (s : State) : State := updateAttn (readyCheck (blocksEntered s))

/-- What READY entry may change before HP judges HOST_LINK. -/
def entryParts : List Part :=
  .se :: .di :: .slots :: .pool :: .pt :: .sm .front :: .sm .rear :: .tm .front :: .tm .rear :: .out :: .oc :: .fu :: bothLinks

theorem entryChecked_from_blocks (s : State) :
    OnlyChanges (.slots :: .oc :: .fu :: bothLinks) (blocksReadyEntry s) (entryChecked s) :=
  ((blocksEntered_only s).seq (entryCheck_only s) (by decide) (by decide)).trans
    ((updateAttn_only _).mono (by simp))

theorem entryChecked_only (s : State) : OnlyChanges entryParts s (entryChecked s) :=
  (blocksReadyEntry_only s).seq (entryChecked_from_blocks s) (by decide) (by decide)

/-- No record is reached before HP judges HOST_LINK. -/
theorem entryChecked_onlyFaults (s : State) : OnlyFaults [] s (entryChecked s) :=
  ((blocksEntered_onlyFaults s).trans ((entryCheck_only s).onlyFaults (by simp))).trans (updateAttn_onlyFaults _)

/-- After READY entry ATTN stands as R145 says. -/
theorem readyEntry_attn {s : State} (ready : s.hp.part = .ready) :
    (readyEntry s).fu.attn = true
      ↔ ∃ c, (faultRecord c (readyEntry s)).latched = true ∧ (faultRecord c (readyEntry s)).masked = false := by
  have part : (entryChecked s).hp.part = .ready :=
    ((entryChecked_only s).part_eq (by decide)).trans ready
  have level : (readyEntry s).fu.attn = attnLevel (entryChecked s).hp.part (readyEntry s).fu.records :=
    evaluateHostLink_attn (updateAttn_attn _)
  rw [level, part, attnLevel_iff]
  simp only [reduceCtorEq, false_or, faultRecord]

/-- What READY entry may still change after Output Control's check. -/
theorem readyEntry_from_check (s : State) :
    OnlyChanges [.hostLink, .fu, .tx, .skips] (readyCheck (blocksEntered s)) (readyEntry s) :=
  (updateAttn_only _).seq (evaluateHostLink_only (entryChecked s)) (by simp) (by decide)

theorem readyEntry_from_blocks (s : State) :
    OnlyChanges (.slots :: .oc :: .fu :: .hostLink :: .tx :: .skips :: bothLinks) (blocksReadyEntry s) (readyEntry s) :=
  (entryChecked_from_blocks s).seq (evaluateHostLink_only _) (by decide) (by decide)

/-- What of HOST_LINK READY entry leaves, and the notice of it (R143, R146, R156). -/
theorem hostLinkJudged_readyEntry (p : Params) (s : State) :
    HostLinkJudged (decide (p.hostErrorLimit ≤ s.hp.badFrames)) s (readyEntry (setupTaken p s))
      ∧ NoticesSent [] s (readyEntry (setupTaken p s)) := by
  have only : OnlyChanges (.params :: .part :: entryParts) s (entryChecked (setupTaken p s)) :=
    (setupTaken_only p s).seq (entryChecked_only _) (by simp) (by decide)
  have faults : OnlyFaults [] s (entryChecked (setupTaken p s)) :=
    ((setupTaken_only p s).onlyFaults (by simp)).trans (entryChecked_onlyFaults _)
  have level : hostLinkLevel (entryChecked (setupTaken p s)) = decide (p.hostErrorLimit ≤ s.hp.badFrames) := by
    have entry := entryChecked_only (setupTaken p s)
    rw [hostLinkLevel, entry.part_eq (by decide), entry.params_eq (by decide),
      entry.badFrames_eq (by decide)]
    rfl
  rw [← level]
  exact ⟨(hostLinkJudged_evaluate _).from_earlier only faults (by decide),
    (noticesSent_evaluateHostLink _).from_earlier only faults (by decide)⟩

/-- The LINK entries are all the Cap Table holds after READY entry. -/
theorem readyEntry_slots (s : State) (src : InternalSource) (x : Axle) (d : Direction) :
    (readyEntry s).ct.slots.get src x d = if src = .link then some ⟨0, 0⟩ else none := by
  rw [(readyEntry_from_check s).slots_eq (by simp), (entryCheck_only s).slots_eq (by simp)]
  exact blocksEntered_slots s src x d

/-- Output Control and the links after READY entry where no FORCING condition is present (R127). -/
theorem readyEntry_untripped {s : State} (absent : ∀ c : FaultCode, c.forcing = true → (faultRecord c s).present = false) :
    (readyEntry s).oc = OutputControl.reset
      ∧ ∀ x, (readyEntry s).link.get x = startingLink s.hp.params.linkTimeoutMs := by
  have check : readyCheck (blocksEntered s) = blocksEntered s := readyCheck_absent fun c forcing => by
    rw [blocksEntered_onlyFaults s c (by simp)]
    exact absent c forcing
  have after := readyEntry_from_check s
  rw [check] at after
  exact ⟨(after.oc_eq (by simp)).trans (blocksEntered_oc s),
    fun x => (after.link_eq x (by simp [linkParts])).trans (blocksEntered_link s x)⟩

/-- Output Control and the links after READY entry that finds a FORCING condition present: the trip, and the torque-off break on
both lines (R110, R136). -/
theorem readyEntry_tripped {s : State} {c : FaultCode} (ready : s.hp.part = .ready) (forcing : c.forcing = true)
    (present : (faultRecord c s).present = true)
    (lowest : ∀ d : FaultCode, d.forcing = true → d.code < c.code → (faultRecord d s).present = false) :
    (readyEntry s).oc = { OutputControl.reset with state := .tripped, tripRecord := some ⟨.fault c, 0⟩ }
      ∧ ∀ x, (readyEntry s).link.get x = { startingLink s.hp.params.linkTimeoutMs with breakSending := true } := by
  have record (d : FaultCode) : faultRecord d (blocksEntered s) = faultRecord d s := blocksEntered_onlyFaults s d (by simp)
  have check : readyCheck (blocksEntered s) = trip (.fault c) (blocksEntered s) :=
    readyCheck_present forcing (by rwa [record]) fun d f below => by
      rw [record]
      exact lowest d f below
  have notStandby : (blocksEntered s).hp.part ≠ .standby := by
    rw [(blocksEntered_only s).part_eq (by decide), (blocksReadyEntry_only s).part_eq (by simp), ready]
    decide
  have period : (blocksEntered s).se.periodNumber = 0 := by
    rw [(blocksEntered_only s).se_eq (by decide)]
    rfl
  have after := readyEntry_from_check s
  rw [check] at after
  refine ⟨?_, fun x => ?_⟩
  · rw [after.oc_eq (by simp), trip_oc, if_neg notStandby, period, blocksEntered_oc]
    rfl
  · rw [after.link_eq x (by simp [linkParts]), trip_link notStandby (by rw [blocksEntered_oc]; decide), blocksEntered_link]
    rfl

/-- Settles O13: the check is `Params.firstBad`; READY entry sets the blocks (`readyEntry_from_blocks`, `readyEntry_slots`), Output
Control checks (`readyEntry_untripped`, `readyEntry_tripped`), and HOST_LINK is judged (`hostLinkJudged_readyEntry`). -/
theorem setupEntersReady : Obligations.SetupEntersReady := by
  rintro s f p h rfl
  refine ⟨fun n low high bad first => ?_, fun good => ?_⟩
  · refine ⟨_, (inOperation_handed h ownerSetup).trans (congrArg _ (ownerSetup_refused ?_ _)), answered_reply_popRequest _ _ _ _,
      reply_popRequest_only _ _ _ _⟩
    exact Params.firstBad_eq_some low high bad first
  · obtain ⟨u, hu⟩ : ∃ u, u = setupTaken (readSetup f.payload) (popRequest s) := ⟨_, rfl⟩
    have popped := popRequest_only s
    have begun : OnlyChanges [.requests, .params, .part] s u := by
      rw [hu]
      exact popped.seq (setupTaken_only _ _) (by simp) (by decide)
    obtain ⟨judged, notices⟩ := hostLinkJudged_readyEntry (readSetup f.payload) (popRequest s)
    have answers : exec .setup s = .next (reply f .ok [0#8] (readyEntry u)) := by
      rw [hu]
      exact (inOperation_handed h ownerSetup).trans (congrArg _ (ownerSetup_taken (Params.firstBad_eq_none good) _))
    rw [← hu] at judged notices
    have replied := reply_only f .ok [0#8] (readyEntry u)
    have judged := (judged.from_earlier popped (popped.onlyFaults (by simp))).to_later replied
    have entry : OnlyChanges (.hostLink :: .tx :: .skips :: entryParts) u (readyEntry u) :=
      (entryChecked_only u).seq (evaluateHostLink_only _) (by decide) (by decide)
    have params : u.hp.params = readSetup f.payload := by rw [hu]; rfl
    have ready : u.hp.part = .ready := by rw [hu]; rfl
    have blocks := (readyEntry_from_blocks u).seq replied (List.Subset.refl _) (by decide)
    have record (c : FaultCode) : faultRecord c u = faultRecord c s := begun.faultRecord_eq (by simp) c
    have fu := replied.fu_eq (by decide)
    have oc := replied.oc_eq (by decide)
    have link (x : Axle) := replied.link_eq x (by simp [linkParts])
    refine ⟨_, answers, answeredAfterNotices_reply notices ?_ _ _ _, ?_, ?_, ?_, blocks.se_eq (by decide),
      blocks.di_eq (by decide), blocks.pool_eq (by decide), fun src x d => ?_, ?_, fun x => ?_, fun x => ?_,
      blocks.out_eq (by decide), judged.level, judged.changed, judged.stands, judged.others, ?_, fun absent => ?_,
      fun c forcing present lowest => ?_⟩
    · rw [entry.requestQueue_eq (by decide), hu]
      rfl
    · exact begun.seq (entry.seq replied (List.Subset.refl _) (by decide)) (by decide) (by decide)
    · exact (replied.params_eq (by simp)).trans ((entry.params_eq (by decide)).trans params)
    · exact (replied.part_eq (by simp)).trans ((entry.part_eq (by decide)).trans ready)
    · rw [replied.slots_eq (by simp)]
      exact readyEntry_slots u src x d
    · rw [blocks.pt_eq (by decide), hu]
      rfl
    · rw [blocks.sm_eq x (by simp [bothLinks, linkParts])]
      cases x <;> rfl
    · rw [blocks.tm_eq x (by simp [bothLinks, linkParts])]
      cases x <;> rfl
    · simp only [faultRecord, fu]
      exact readyEntry_attn ready
    · obtain ⟨control, links⟩ := readyEntry_untripped (s := u) fun c forcing => by rw [record]; exact absent c forcing
      rw [params] at links
      exact ⟨oc.trans control, fun x => (link x).trans (links x)⟩
    · obtain ⟨control, links⟩ := readyEntry_tripped ready forcing (by rwa [record]) fun d f below => by
        rw [record]
        exact lowest d f below
      rw [params] at links
      exact ⟨oc.trans control, fun x => (link x).trans (links x)⟩

end Sys2Proof.Machine
end

section
/-! A step runs the command at the front of the queue, and every command answers a next state and leaves the queue of commands alone
(O1, O3). -/

namespace Sys2Proof.Machine

/-- Settles O1: `step` reads the queue and hands its front to `exec`. -/
theorem stepRunsFrontCommand : Obligations.StepRunsFrontCommand := by
  intro c rest s front
  rw [step, front]
  rfl

/-! ### What leaves the queue of commands alone -/

/-- The answer is a next state whose queue of commands is that of `s`. -/
def AnswersNext (s : State) (a : Answer) : Prop := ∃ t, a = .next t ∧ t.pending = s.pending

/-- A command acts or, held in reset, changes nothing: either way it answers next. -/
theorem answersNext_inOperation {effect : State → State} {s : State} (h : (effect s).pending = s.pending) :
    AnswersNext s (inOperation effect s) := by
  refine ⟨_, rfl, ?_⟩
  split
  · rfl
  · exact h

/-- A command in operation whose effect is known by the parts it changes. -/
theorem OnlyChanges.answersNext {ps : List Part} {effect : State → State} {s : State} (h : OnlyChanges ps s (effect s))
    (n : Part.queue ∉ ps := by simp [frameEndParts, ownerEventParts, claimParts, rxParts, betweenParts, periodParts, tripParts]) :
    AnswersNext s (inOperation effect s) :=
  answersNext_inOperation (h.queue_eq n)

/-- A command in operation that acts only under a condition, and changes nothing where it fails. -/
theorem OnlyChanges.answersNext_guarded {ps : List Part} {guard : State → Bool} {effect : State → State} {s : State}
    (h : OnlyChanges ps s (effect s))
    (n : Part.queue ∉ ps := by simp [claimParts, rxParts, betweenParts, periodParts, tripParts]) :
    AnswersNext s (inOperation (fun s => if guard s then effect s else s) s) :=
  OnlyChanges.answersNext (.ite (fun _ => h) fun _ => .refl _ s) n

/-- A request command answers next where its owner leaves the queue of commands alone (R158). -/
theorem answersNext_takeRequest (k : RequestKind) {owner : HostFrame → State → State}
    (h : ∀ f t, (owner f t).pending = t.pending) (s : State) : AnswersNext s (inOperation (takeRequest k owner) s) :=
  answersNext_inOperation <| takeRequest_cases (P := fun t => t.pending = s.pending) k owner s rfl
    (fun f r p => (reply_only f r p _).queue_eq (by decide)) fun _ f => h f (popRequest s)

/-- A request command whose owner is known by the parts it changes. -/
theorem answersNext_request (k : RequestKind) {ps : List Part} {owner : HostFrame → State → State}
    (h : ∀ f t, OnlyChanges ps t (owner f t)) (s : State) (n : Part.queue ∉ ps := by decide) :
    AnswersNext s (inOperation (takeRequest k owner) s) :=
  answersNext_takeRequest k (fun f t => (h f t).queue_eq n) s

/-! ### The commands that no frame covers: the software reset, SETUP, and the stop of REFCLK -/

theorem softwareReset_pending (s : State) : (softwareReset s).pending = s.pending := rfl

/-- SETUP at its owner: a refusal, or READY entry (R162, R163). -/
theorem ownerSetup_pending (f : HostFrame) (s : State) : (ownerSetup f s).pending = s.pending := by
  have replied (r : ResultCode) (p : List Byte) (t : State) : (reply f r p t).pending = t.pending :=
    (reply_only f r p t).queue_eq (by decide)
  cases check : (readSetup f.payload).firstBad with
  | some n => rw [ownerSetup_refused check, replied]
  | none =>
    rw [ownerSetup_taken check, replied, (readyEntry_only _).queue_eq (by decide), (blocksReadyEntry_only _).queue_eq (by decide)]
    rfl

theorem clockStops_pending (m : Measures) (s : State) : (clockStops m s).pending = s.pending := by
  unfold clockStops
  split
  · rw [(holdMeasures_only m _).queue_eq (by decide), (finishPeriod_only s).queue_eq (by decide)]
  · rfl

/-! ### Every command -/

/-- Settles O3: every command is a reset, the stop or return of REFCLK, a request (`answersNext_request`), or an event that acts in
operation only (`OnlyChanges.answersNext`); what each changes is said by its `_only` lemma, and none lists the queue of commands. -/
theorem everyCommandAnswersNext : Obligations.EveryCommandAnswersNext := by
  intro c s
  change AnswersNext s (exec c s)
  cases c with
  | powerUp | pinReset | resetnRelease => exact ⟨_, rfl, rfl⟩
  | softwareReset =>
    refine answersNext_inOperation ?_
    split
    · exact softwareReset_pending s
    · rfl
  | refclkStops m => exact ⟨_, rfl, clockStops_pending m s⟩
  | refclkReturns => exact ⟨_, rfl, (clockReturns_only s).queue_eq (by decide)⟩
  | hostFrameReceived bytes => exact (hostBytes_only bytes s).answersNext
  | hostGapTimeout => exact (badHostFrame_only s).answersNext_guarded (guard := fun s => s.tb.refclk && s.hp.framer.isSome)
  | hostFrameSent => exact (hostFrameSent_only s).answersNext
  | setup => exact answersNext_takeRequest _ ownerSetup_pending s
  | reset => exact answersNext_request _ ownerReset_only s
  | status during => exact answersNext_request _ (ownerStatus_only during) s
  | paramSet => exact answersNext_request _ ownerParamSet_only s
  | paramGet => exact answersNext_request _ ownerParamGet_only s
  | sync => exact answersNext_request _ ownerSync_only s
  | kindUnknown => exact (takeUnknown_only s).answersNext
  | demand => exact answersNext_request _ ownerDemand_only s
  | capPost => exact answersNext_request _ ownerCapPost_only s
  | capWithdraw => exact answersNext_request _ ownerCapWithdraw_only s
  | capWithdrawSource => exact answersNext_request _ ownerCapWithdrawSource_only s
  | capList => exact answersNext_request _ ownerCapList_only s
  | profileWrite => exact answersNext_request _ ownerProfileWrite_only s
  | profileCheck => exact answersNext_request _ ownerProfileCheck_only s
  | profileRead => exact answersNext_request _ ownerProfileRead_only s
  | profileSelect => exact answersNext_request _ ownerProfileSelect_only s
  | linkQuery => exact answersNext_request _ ownerLinkQuery_only s
  | linkPost => exact answersNext_request _ ownerLinkPost_only s
  | arm => exact answersNext_request _ ownerArm_only s
  | disarm => exact answersNext_request _ ownerDisarm_only s
  | torqueOff => exact answersNext_request _ ownerTorqueOff_only s
  | clearTrip => exact answersNext_request _ ownerClearTrip_only s
  | faultRead => exact answersNext_request _ ownerFaultRead_only s
  | faultMask => exact answersNext_request _ ownerFaultMask_only s
  | faultTest => exact answersNext_request _ ownerFaultTest_only s
  | periodExpiry through slip => exact (periodExpiry_only through s slip).answersNext
  | hostEntryExpiry src x d => exact (hostEntryExpires_only src x d s).answersNext_guarded
  | armWindowExpiry => exact (armWindowExpires_only s).answersNext_guarded
  | linkTimerExpiry x gs =>
    exact OnlyChanges.answersNext_guarded (effect := fun s => linkTimerExpires x s (gaps gs)) (linkTimerExpires_gaps_only gs x s)
  | commandFrameComplete x met => exact (frameEnds_only x met s).answersNext
  | breakEnd x => exact (breakEnds_only x s).answersNext
  | statusFrameAccepted x bytes gs => exact (receiveBytes_gaps_only gs x bytes s).answersNext
  | statusFrameBad x bytes framingError => exact (receiveBad_only x bytes framingError s).answersNext
  | receiveGapCut x => exact (gapCutAt_only x s).answersNext_guarded (guard := fun s => s.tb.refclk)
  | lineLow90us x gs => exact (lineLow_gaps_only gs x s).answersNext
  | receiveLineHigh x => exact (lineHigh_only x s).answersNext
  | clockCheckWindowEnd edges gs =>
    exact OnlyChanges.answersNext (effect := fun s => judgeWindow edges s (gaps gs)) (judgeWindow_gaps_only gs edges s)

end Sys2Proof.Machine
end
